-- ==== Sys2Proof/Word.lean ====
section
/-! DEFINITION. The word types of the Snapshot Codec: widths only, no operation. -/

namespace Sys2Proof

/-- One byte of the snapshot register or of the external buffer (00_scope.md R8). -/
abbrev Byte := BitVec 8

/-- The 24-bit packed value `P`, byte0 least significant (00_scope.md R9). -/
abbrev Packed := BitVec 24

/-- A command word, `CMD_W = 32` bits (30_encoding.md R61). -/
abbrev CmdWord := BitVec 32

/-- A response word, `RSP_W = 32` bits (30_encoding.md R62). -/
abbrev RspWord := BitVec 32

end Sys2Proof
end

