-- ==== Sys2Proof/Config.lean ====
section
/-! DEFINITION. The implementation parameters of 00_scope.md R6 and the one value the spec leaves open. -/

namespace Sys2Proof.Config

/-- `N_SNAP`, the number of snapshot registers (00_scope.md R6, D2): State holds one. -/
def nSnap : Nat := 1

/-- `CMD_W`, the width of a command word (00_scope.md R6, D3): the width of `CmdWord`. -/
def cmdW : Nat := 32

/-- `RSP_W`, the width of a response word (00_scope.md R6, D6): the width of `RspWord`. -/
def rspW : Nat := 32

/-- `W_IN`, the width of an operand of SETPOS and SETVEL in a command word (00_scope.md R6, D5). It bounds what
a command word can carry; the meanings are defined on all integers. -/
def wIn : Nat := 8

/-- `LAT`, the clock cycles from a command to its effect being visible to the next (00_scope.md R6, D11): one
model step is one cycle. -/
def lat : Nat := 1

/-- `RESET_SNAP`, the packed value of the snapshot register after reset (00_scope.md R6, D9). -/
def resetSnap : Packed := 0x000000#24

/-- FREE VALUE (log entry 4): the value of the snapshot register after the `n`-th power-up and before the reset that
follows it, which 70_reset_and_hazards.md R162 and 60_exceptions.md R151 leave unspecified. Nothing constrains it. -/
opaque powerUpSnap : Nat → Packed

end Sys2Proof.Config
end

