-- ==== Sys2Proof/Syntax.lean ====
section
/-! DEFINITION. The ten commands of 30_encoding.md R63, as the decoder of R71 names them. -/

namespace Sys2Proof

/-- A command: one constructor per row of spec/opcode_table.json. The operands of SETPOS and SETVEL are the
integers handed to the clamps (R66), on which the clamps are defined without a bound (00_scope.md R6, R10, R11;
log entry 5); those of DESER are bytes. The document's `snapshot` argument is the register itself (R64). -/
inductive Instr where
  /-- `CLR` (40_setters.md R80). -/
  | clr
  /-- `SETPOS x_tile_in, x_sub_in, y_tile_in` (R81). -/
  | setpos (xTileIn xSubIn yTileIn : Nat)
  /-- `SETVEL vel_in` (R83). -/
  | setvel (velIn : Int)
  /-- `CSUM` (41_checksum.md R90). -/
  | csum
  /-- `VALID` (R92). -/
  | valid
  /-- `SER` (42_transfer.md R100). -/
  | ser
  /-- `DESER buf_in[0], buf_in[1], buf_in[2]` (R102). -/
  | deser (buf0 buf1 buf2 : Byte)
  /-- `RAW` (R104). -/
  | raw
  /-- `GETPOS` (43_decode.md R110). -/
  | getpos
  /-- `GETVEL` (R111). -/
  | getvel
  deriving DecidableEq, Repr

end Sys2Proof
end

