-- ==== Sys2Proof/WellFormed.lean ====
section
/-! DEFINITION. Which commands a command word can carry (30_encoding.md R72: an operand outside the stated range
cannot be encoded). -/

namespace Sys2Proof

/-- An operand of SETPOS fits its byte: 0..255 (R65, R72). -/
def unsignedFits (v : Nat) : Bool := v < 2 ^ Config.wIn

/-- An operand of SETVEL fits its two's-complement byte: -128..127 (R65, R72). -/
def signedFits (v : Int) : Bool := -(2 ^ (Config.wIn - 1) : Nat) ≤ v && v < (2 ^ (Config.wIn - 1) : Nat)

/-- The command can be encoded (30_encoding.md R72). -/
def Instr.wellFormed : Instr → Bool
  | .clr => true
  | .setpos a b c => unsignedFits a && unsignedFits b && unsignedFits c
  | .setvel v => signedFits v
  | .csum => true
  | .valid => true
  | .ser => true
  | .deser _ _ _ => true
  | .raw => true
  | .getpos => true
  | .getvel => true

end Sys2Proof
end

