-- ==== Sys2Proof/Decode.lean ====
section
/-! DEFINITION. The decoder of 30_encoding.md R71, total on all command words, and the encoder of R72. -/

namespace Sys2Proof

/-- `cmd.op`, bits 31:28 (R61). -/
def cmdOp (w : CmdWord) : BitVec 4 := w.extractLsb' 28 4

/-- `cmd.rsvd`, bits 27:24 (R61). -/
def cmdRsvd (w : CmdWord) : BitVec 4 := w.extractLsb' 24 4

/-- `cmd.payload`, bits 23:0 (R61). -/
def cmdPayload (w : CmdWord) : Packed := w.extractLsb' 0 24

/-- Payload lane `p0`, bits 7:0 (R61). -/
def cmdP0 (w : CmdWord) : Byte := w.extractLsb' 0 8

/-- Payload lane `p1`, bits 15:8 (R61). -/
def cmdP1 (w : CmdWord) : Byte := w.extractLsb' 8 8

/-- Payload lane `p2`, bits 23:16 (R61). -/
def cmdP2 (w : CmdWord) : Byte := w.extractLsb' 16 8

/-- `sval_8(u)`, a byte read as a signed integer (00_scope.md R14). -/
def sval8 (u : Byte) : Int := if u.toNat < 128 then (u.toNat : Int) else (u.toNat : Int) - 256

/-- What a command word decodes to: a command, or ILLEGAL (R71). The two causes of R68 are one outcome, as R146(b)
asks. -/
inductive Decoded where
  /-- A legal word. -/
  | cmd (i : Instr)
  /-- An illegal word (R68): answered in-band with status ILLEGAL, never a fault. -/
  | illegal
  deriving DecidableEq, Repr

/-- The command that opcode `op` and the payload of `w` select, for a word whose reserved field is 0 (R71). -/
def decodeOp (op : Nat) (w : CmdWord) : Decoded :=
  match op with
  | 0x1 => .cmd .clr
  | 0x2 => .cmd (.setpos (cmdP0 w).toNat (cmdP1 w).toNat (cmdP2 w).toNat)
  | 0x3 => .cmd (.setvel (sval8 (cmdP0 w)))
  | 0x4 => .cmd .csum
  | 0x5 => .cmd .valid
  | 0x6 => .cmd .ser
  | 0x7 => .cmd (.deser (cmdP0 w) (cmdP1 w) (cmdP2 w))
  | 0x8 => .cmd .raw
  | 0x9 => .cmd .getpos
  | 0xA => .cmd .getvel
  | _ => .illegal

/-- `decode(cmd)` of R71. -/
def decode (w : CmdWord) : Decoded :=
  if cmdRsvd w ≠ 0#4 then .illegal else decodeOp (cmdOp w).toNat w

/-- The `match` value of the command's row in the opcode map (R63): its opcode in bits 31:28, all else 0. -/
def Instr.matchWord : Instr → CmdWord
  | .clr => 0x10000000#32
  | .setpos _ _ _ => 0x20000000#32
  | .setvel _ => 0x30000000#32
  | .csum => 0x40000000#32
  | .valid => 0x50000000#32
  | .ser => 0x60000000#32
  | .deser _ _ _ => 0x70000000#32
  | .raw => 0x80000000#32
  | .getpos => 0x90000000#32
  | .getvel => 0xA0000000#32

/-- The bits of a command word that the command's row marks ignored (R65, R69). -/
def Instr.ignoredMask : Instr → CmdWord
  | .clr => 0x00FFFFFF#32
  | .setpos _ _ _ => 0x00000000#32
  | .setvel _ => 0x00FFFF00#32
  | .csum => 0x00FFFFFF#32
  | .valid => 0x00FFFFFF#32
  | .ser => 0x00FFFFFF#32
  | .deser _ _ _ => 0x00000000#32
  | .raw => 0x00FFFFFF#32
  | .getpos => 0x00FFFFFF#32
  | .getvel => 0x00FFFFFF#32

/-- Three operand bytes in the payload lanes: `(c << 16) | (b << 8) | a` (R65, R72). -/
def lanes (a b c : Byte) : CmdWord :=
  (c.setWidth 32 <<< 16) ||| (b.setWidth 32 <<< 8) ||| a.setWidth 32

/-- The operand bits of the command's word (R72). An operand beyond its byte is not encodable (`assemble`). -/
def Instr.payload : Instr → CmdWord
  | .clr => 0#32
  | .setpos a b c => lanes (BitVec.ofNat 8 a) (BitVec.ofNat 8 b) (BitVec.ofNat 8 c)
  | .setvel v => lanes (BitVec.ofInt 8 v) 0#8 0#8
  | .csum => 0#32
  | .valid => 0#32
  | .ser => 0#32
  | .deser a b c => lanes a b c
  | .raw => 0#32
  | .getpos => 0#32
  | .getvel => 0#32

/-- The canonical word of a well-formed command, zeros in every ignored bit (R69, R71, R72). -/
def encode (i : Instr) : CmdWord := i.matchWord ||| i.payload

/-- The assembler (R72): an operand outside its range is an error, never clamped. -/
def assemble (i : Instr) : Option CmdWord := if i.wellFormed then some (encode i) else none

/-- A command, or none for an illegal word. -/
def Decoded.instr? : Decoded → Option Instr
  | .cmd i => some i
  | .illegal => none

/-- The host's question: the instruction read from an instruction of `nbits` bits `w`. A command is one 32-bit word
(R61); bits above `nbits` are 0, and no instruction is longer than 32 bits. -/
def decodeTableWord (nbits w : Nat) : Option Instr :=
  if nbits ≤ 32 then (decode (BitVec.ofNat 32 (w % 2 ^ nbits))).instr? else none

end Sys2Proof
end

