-- ==== Sys2Proof/Machine/Operands.lean ====
section
/-! DEFINITION. The arithmetic helpers of 00_scope.md section 4.2 that the operand rules use. -/

namespace Sys2Proof.Machine

/-- `clamp_u(v, M)`, the unsigned saturating cast (00_scope.md R10). -/
def clampU (v max : Nat) : Nat := if v ≤ max then v else max

/-- `clamp_s5(v)`, the signed saturating cast to 5 bits (R11). -/
def clampS5 (v : Int) : Int := if v < -16 then -16 else if v > 15 then 15 else v

/-- `enc5(w)`, the 5-bit two's-complement pattern of `w` in [-16, 15] (R12). -/
def enc5 (w : Int) : BitVec 5 := BitVec.ofNat 5 (if 0 ≤ w then w else w + 32).toNat

/-- `dec5(e)`, the signed value of a 5-bit pattern (R13). -/
def dec5 (e : BitVec 5) : Int := if e.toNat < 16 then (e.toNat : Int) else (e.toNat : Int) - 32

/-- `sext_8(e)`, by comparison and OR, not by a shift (R14; 93_implementation_defined.md U3). -/
def sext8 (e : BitVec 5) : Byte := if e.toNat < 16 then e.setWidth 8 else e.setWidth 8 ||| 0xE0#8

/-- The operands of SETPOS after the clamp, `(xt, xs, yt)` (40_setters.md R81; the maxima of 00_scope.md R10). -/
def clampPos (xTileIn xSubIn yTileIn : Nat) : Nat × Nat × Nat :=
  (clampU xTileIn 63, clampU xSubIn 15, clampU yTileIn 31)

end Sys2Proof.Machine
end

