-- ==== Sys2Proof/Machine/State.lean ====
section
/-! DEFINITION. The state of the block: the snapshot register, and the ports as plain data. -/

namespace Sys2Proof.Machine

/-- The snapshot register `S` as its three bytes `x[0]`, `x[1]`, `x[2]` (10_state.md R20, R21). -/
@[ext] structure Snapshot where
  /-- byte0 (R23): x_tile in bits 0-5, the low two bits of x_sub in bits 6-7. -/
  b0 : Byte
  /-- byte1 (R23): the high two bits of x_sub in bits 0-1, y_tile in bits 2-6, the velocity's low bit in bit 7. -/
  b1 : Byte
  /-- byte2 (R23): the velocity's high four bits in bits 0-3, the checksum slot in bits 4-7. -/
  b2 : Byte
  deriving DecidableEq, Repr

/-- The two response statuses (30_encoding.md R62); no other is ever produced. -/
inductive Status where
  /-- The word was legal and was executed. -/
  | ok
  /-- The word was illegal and nothing was done (R68). -/
  | illegal
  deriving DecidableEq, Repr

/-- A response (30_encoding.md R62). Bits 27:24 of its word are always 0, so they are no field. -/
structure Response where
  status : Status
  data : Packed
  deriving DecidableEq, Repr

/-- The input ports as sampled at one rising edge of `clk` (30_encoding.md R60). -/
structure PortIn where
  /-- `rst` (70_reset_and_hazards.md R160). -/
  rst : Bool
  /-- `cmd_valid`. -/
  cmdValid : Bool
  /-- `cmd`; ignored unless `cmd_valid = 1` and `rst = 0` (R160, R166). -/
  cmd : CmdWord
  deriving DecidableEq, Repr

/-- The whole state. The spec's own is `snap` alone (10_state.md R20, R32); `inputs` and `rsp` are the model's. -/
structure State where
  /-- The snapshot register `S`. -/
  snap : Snapshot
  /-- The samples of the input ports that the host will drive, one for each coming clock edge, oldest first; after
  the last the ports are idle (log entry 1, DESIGN CHOICE). -/
  inputs : List PortIn
  /-- The output ports in the cycle just executed: `none` is `rsp_valid = 0`, where `rsp` has no value
  (93_implementation_defined.md U13). No meaning reads it (log entry 3, DESIGN CHOICE). -/
  rsp : Option Response
  deriving DecidableEq, Repr

/-- No constructor: the block raises nothing, and the step has no fault outcome (60_exceptions.md R140). -/
inductive Fault where
  deriving DecidableEq, Repr

/-- Why a step could end without a meaning. -/
inductive Refusal where
  /-- Raised by an arm of `exec` for an instruction that has no meaning yet; safe. No arm raises it now. -/
  | notModelled (mnemonic : String)
  deriving DecidableEq, Repr

/-- The block right after reset (10_state.md R33, R34): `S = 0x000000`, no response. Nothing has been presented by
the host (log entry 2). -/
def State.reset : State where
  snap := ⟨Config.resetSnap.extractLsb' 0 8, Config.resetSnap.extractLsb' 8 8, Config.resetSnap.extractLsb' 16 8⟩
  inputs := []
  rsp := none

end Sys2Proof.Machine
end

