-- ==== Sys2Proof/Machine/Ops.lean ====
section
/-! DEFINITION. The shared operations: views of the snapshot register, placing bits, the response, the ports. -/

namespace Sys2Proof.Machine

/-! ## Views of a snapshot -/

/-- The packed value `P`: byte0 in bits 7:0, byte1 in 15:8, byte2 in 23:16 (00_scope.md R9). -/
def Snapshot.packed (s : Snapshot) : Packed := s.b2 ++ s.b1 ++ s.b0

/-- The snapshot whose packed value is `p` (00_scope.md R9). -/
def Snapshot.ofPacked (p : Packed) : Snapshot :=
  ⟨p.extractLsb' 0 8, p.extractLsb' 8 8, p.extractLsb' 16 8⟩

/-- `x_tile(s) = b0 & 0x3F` (10_state.md R25). -/
def Snapshot.xTile (s : Snapshot) : BitVec 6 := (s.b0 &&& 0x3F#8).setWidth 6

/-- `x_sub(s) = ((b1 & 0x03) << 2) | (b0 >> 6)` (R25). -/
def Snapshot.xSub (s : Snapshot) : BitVec 4 := (((s.b1 &&& 0x03#8) <<< 2) ||| (s.b0 >>> 6)).setWidth 4

/-- `y_tile(s) = (b1 >> 2) & 0x1F` (R25). -/
def Snapshot.yTile (s : Snapshot) : BitVec 5 := ((s.b1 >>> 2) &&& 0x1F#8).setWidth 5

/-- `vel_enc(s) = ((b2 & 0x0F) << 1) | (b1 >> 7)`, the stored pattern (R25). -/
def Snapshot.velEnc (s : Snapshot) : BitVec 5 := (((s.b2 &&& 0x0F#8) <<< 1) ||| (s.b1 >>> 7)).setWidth 5

/-- `vel(s) = dec5(vel_enc(s))` (R25). -/
def Snapshot.vel (s : Snapshot) : Int := dec5 s.velEnc

/-- `stored_csum(s) = b2 >> 4` (R25). -/
def Snapshot.storedCsum (s : Snapshot) : BitVec 4 := (s.b2 >>> 4).setWidth 4

/-- `data(s) = P[19:0]`, the 20 data bits (R25). -/
def Snapshot.dataBits (s : Snapshot) : BitVec 20 := s.packed.extractLsb' 0 20

/-- `nib(P, k) = P[4k+3:4k]` (00_scope.md R15). -/
def nib (p : Packed) (k : Nat) : BitVec 4 := p.extractLsb' (4 * k) 4

/-! ## Placing bits -/

/-- `(old & ~mask) | value`: the bits under `mask` get those of `value`, the others stay (40_setters.md R86). -/
def placeBits (old mask value : Byte) : Byte := (old &&& ~~~mask) ||| value

/-! ## Responses -/

/-- Three bytes as response data, `d0 | (d1 << 8) | (d2 << 16)` (30_encoding.md R67; 20_memory.md R41). -/
def data3 (d0 d1 d2 : Byte) : Packed :=
  d0.setWidth 24 ||| (d1.setWidth 24 <<< 8) ||| (d2.setWidth 24 <<< 16)

/-- The status field, bits 31:28 (30_encoding.md R62). -/
def Status.code : Status → BitVec 4
  | .ok => 0x0#4
  | .illegal => 0x1#4

/-- The response word (30_encoding.md R62). -/
def Response.word (r : Response) : RspWord := r.status.code ++ 0#4 ++ r.data

/-- A legal command completes: `S <- snap'`, `rsp <- (OK, data)`, one update (20_memory.md R46; 30_encoding.md R62). -/
def State.answer (s : State) (snap' : Snapshot) (data : Packed) : State :=
  { s with snap := snap', rsp := some ⟨.ok, data⟩ }

/-- A command that only reads: `S` unchanged, `rsp <- (OK, data)` (10_state.md R35). -/
def State.answerRead (s : State) (data : Packed) : State := s.answer s.snap data

/-- A command that only writes: `rsp <- (OK, 0x000000)` (30_encoding.md R67). -/
def State.answerWrite (s : State) (snap' : Snapshot) : State := s.answer snap' 0x000000#24

/-- An illegal word: `S` unchanged, `rsp <- (ILLEGAL, 0x000000)`, nothing latched (30_encoding.md R68; 60_exceptions.md
R143, R147). It stands where other machines take an exception: this block has none (R140). -/
def State.answerIllegal (s : State) : State := { s with rsp := some ⟨.illegal, 0x000000#24⟩ }

/-! ## Cycles without a command -/

/-- A cycle with `rst = 1`: `S <- RESET_SNAP`, no response (70_reset_and_hazards.md R160). -/
def State.resetCycle (s : State) : State := { s with snap := Snapshot.ofPacked Config.resetSnap, rsp := none }

/-- A cycle with `rst = 0` and `cmd_valid = 0`: `S` unchanged, no response (70_reset_and_hazards.md R166, D19). -/
def State.idleCycle (s : State) : State := { s with rsp := none }

/-- The output port `rsp_valid` in the cycle just executed (30_encoding.md R60). -/
def State.rspValid (s : State) : Bool := s.rsp.isSome

/-! ## The input ports -/

/-- The ports when the host presents nothing: `rst = 0`, `cmd_valid = 0`. The word on `cmd` is ignored (R166). -/
def PortIn.idle : PortIn := ⟨false, false, 0#32⟩

/-- The ports when the host presents command word `w` (30_encoding.md R60). -/
def PortIn.command (w : CmdWord) : PortIn := ⟨false, true, w⟩

/-- What the input ports show at this clock edge, and the state with that sample taken; idle when the host has
presented nothing more (log entry 1). -/
def State.sample (s : State) : PortIn × State :=
  match s.inputs with
  | [] => (PortIn.idle, s)
  | p :: rest => (p, { s with inputs := rest })

/-- The state in which the host presents `w` at the next clock edge, before all it will present later. -/
def State.present (s : State) (w : CmdWord) : State := { s with inputs := PortIn.command w :: s.inputs }

/-- The state after the `n`-th power-up, before the reset that follows it: `S` has an unspecified value
(70_reset_and_hazards.md R162; log entry 4). -/
def State.powerUp (n : Nat) : State := { State.reset with snap := Snapshot.ofPacked (Config.powerUpSnap n) }

end Sys2Proof.Machine
end

