-- ==== Sys2Proof/Machine/Accessors.lean ====
section
/-! DEFINITION. GETPOS, GETVEL (spec/43_decode.md). -/

namespace Sys2Proof.Machine

/-- `GETPOS` (43_decode.md R110): the three position fields, each zero-extended to a byte. -/
def execGetpos (s : State) : Host.Outcome State Fault Refusal :=
  .next (s.answerRead (data3 (s.snap.xTile.setWidth 8) (s.snap.xSub.setWidth 8) (s.snap.yTile.setWidth 8)))

/-- `GETVEL` (43_decode.md R111): the velocity sign-extended to 8 bits, not beyond. -/
def execGetvel (s : State) : Host.Outcome State Fault Refusal :=
  .next (s.answerRead ((sext8 s.snap.velEnc).setWidth 24))

end Sys2Proof.Machine
end

