-- ==== Sys2Proof/Machine/Flags.lean ====
section
/-! DEFINITION. The checksum and its comparison. The block has no flag register (10_state.md R28): these two functions
are the only condition it computes, and neither is stored. -/

namespace Sys2Proof.Machine

/-- `csum(s)`, the XOR of the five data nibbles (41_checksum.md R90). -/
def Snapshot.csum (s : Snapshot) : BitVec 4 :=
  ((s.b0 &&& 0x0F#8) ^^^ (s.b0 >>> 4) ^^^ (s.b1 &&& 0x0F#8) ^^^ (s.b1 >>> 4) ^^^ (s.b2 &&& 0x0F#8)).setWidth 4

/-- `valid(s)`: the stored checksum equals the computed one (41_checksum.md R92). -/
def Snapshot.isValid (s : Snapshot) : Bool := s.storedCsum == s.csum

end Sys2Proof.Machine
end

