-- ==== Sys2Proof/Machine/Checksum.lean ====
section
/-! DEFINITION. CSUM, VALID (spec/41_checksum.md). -/

namespace Sys2Proof.Machine

/-- `CSUM` (41_checksum.md R90). -/
def execCsum (s : State) : Host.Outcome State Fault Refusal :=
  .next (s.answerRead (s.snap.csum.setWidth 24))

/-- `VALID` (41_checksum.md R92): data bit 0 is the validity, and nothing is latched. -/
def execValid (s : State) : Host.Outcome State Fault Refusal :=
  .next (s.answerRead (if s.snap.isValid then 0x000001#24 else 0x000000#24))

end Sys2Proof.Machine
end

