-- ==== Sys2Proof/Machine/Setters.lean ====
section
/-! DEFINITION. CLR, SETPOS, SETVEL (spec/40_setters.md). -/

namespace Sys2Proof.Machine

/-- The cleared snapshot (40_setters.md R80). -/
def Snapshot.cleared : Snapshot := ⟨0x00#8, 0x00#8, 0x00#8⟩

/-- The register after `SETPOS`, in the order of R81's statements. -/
def Snapshot.setpos (s : Snapshot) (xTileIn xSubIn yTileIn : Nat) : Snapshot :=
  let (xt, xs, yt) := clampPos xTileIn xSubIn yTileIn
  let b0 := placeBits s.b0 0x3F#8 (BitVec.ofNat 8 xt)
  let b0 := placeBits b0 0xC0#8 ((BitVec.ofNat 8 xs &&& 0x03#8) <<< 6)
  let b1 := placeBits s.b1 0x03#8 (BitVec.ofNat 8 xs >>> 2)
  let b1 := placeBits b1 0x7C#8 (BitVec.ofNat 8 yt <<< 2)
  ⟨b0, b1, s.b2⟩

/-- The register after `SETVEL`: the clamp first, the 5-bit pattern second (40_setters.md R83). -/
def Snapshot.setvel (s : Snapshot) (velIn : Int) : Snapshot :=
  let enc := (enc5 (clampS5 velIn)).setWidth 8
  let b1 := placeBits s.b1 0x80#8 ((enc &&& 0x01#8) <<< 7)
  let b2 := placeBits s.b2 0x0F#8 (enc >>> 1)
  ⟨s.b0, b1, b2⟩

/-- `CLR` (40_setters.md R80). -/
def execClr (s : State) : Host.Outcome State Fault Refusal :=
  .next (s.answerWrite Snapshot.cleared)

/-- `SETPOS` (40_setters.md R81, R85, R86). -/
def execSetpos (xTileIn xSubIn yTileIn : Nat) (s : State) : Host.Outcome State Fault Refusal :=
  .next (s.answerWrite (s.snap.setpos xTileIn xSubIn yTileIn))

/-- `SETVEL` (40_setters.md R83, R85, R86). -/
def execSetvel (velIn : Int) (s : State) : Host.Outcome State Fault Refusal :=
  .next (s.answerWrite (s.snap.setvel velIn))

end Sys2Proof.Machine
end

