-- ==== Sys2Proof/Machine/Transfer.lean ====
section
/-! DEFINITION. SER, DESER, RAW (spec/42_transfer.md). -/

namespace Sys2Proof.Machine

/-- `ser(s)`: byte0 and byte1 verbatim, byte2's high nibble replaced by the computed checksum (42_transfer.md R100). -/
def Snapshot.ser (s : Snapshot) : Snapshot :=
  ⟨s.b0, s.b1, (s.csum.setWidth 8 <<< 4) ||| (s.b2 &&& 0x0F#8)⟩

/-- The three bytes of a buffer as response data (42_transfer.md R100, R104; 20_memory.md R41). -/
def Snapshot.asData (s : Snapshot) : Packed := data3 s.b0 s.b1 s.b2

/-- `SER` (42_transfer.md R100): the register itself is not written. -/
def execSer (s : State) : Host.Outcome State Fault Refusal :=
  .next (s.answerRead s.snap.ser.asData)

/-- `DESER` (42_transfer.md R102): all three bytes verbatim, no validation. -/
def execDeser (buf0 buf1 buf2 : Byte) (s : State) : Host.Outcome State Fault Refusal :=
  .next (s.answerWrite ⟨buf0, buf1, buf2⟩)

/-- `RAW` (42_transfer.md R104): the stored checksum included. -/
def execRaw (s : State) : Host.Outcome State Fault Refusal :=
  .next (s.answerRead s.snap.asData)

end Sys2Proof.Machine
end

