-- ==== Sys2Proof/Machine/Dispatch.lean ====
section
/-! DEFINITION. The dispatch: one arm per command, each a direct call of its meaning. -/

namespace Sys2Proof.Machine

def exec (i : Instr) (s : State) : Host.Outcome State Fault Refusal :=
  match i with
  | .clr => Sys2Proof.Machine.execClr s
  | .setpos xTileIn xSubIn yTileIn => Sys2Proof.Machine.execSetpos xTileIn xSubIn yTileIn s
  | .setvel velIn => Sys2Proof.Machine.execSetvel velIn s
  | .csum => Sys2Proof.Machine.execCsum s
  | .valid => Sys2Proof.Machine.execValid s
  | .ser => Sys2Proof.Machine.execSer s
  | .deser buf0 buf1 buf2 => Sys2Proof.Machine.execDeser buf0 buf1 buf2 s
  | .raw => Sys2Proof.Machine.execRaw s
  | .getpos => Sys2Proof.Machine.execGetpos s
  | .getvel => Sys2Proof.Machine.execGetvel s

end Sys2Proof.Machine
end

