-- ==== Sys2Proof/Machine/Step.lean ====
section
/-! DEFINITION. One step is one rising edge of `clk` (30_encoding.md R60; 70_reset_and_hazards.md R167). -/

namespace Sys2Proof.Machine

/-- What the edge does with the sampled ports `p` (30_encoding.md R60): reset wins over a command
(70_reset_and_hazards.md R160), then a presented word is decoded and executed or answered ILLEGAL, else the cycle is
idle (R166). -/
def clockEdge (p : PortIn) (s : State) : Host.Outcome State Fault Refusal :=
  if p.rst then .next s.resetCycle
  else if p.cmdValid then
    match decode p.cmd with
    | .cmd i => exec i s
    | .illegal => .next s.answerIllegal
  else .next s.idleCycle

/-- One clock cycle: sample the input ports and act on them. -/
def step (s : State) : Host.Outcome State Fault Refusal :=
  clockEdge s.sample.1 s.sample.2

/-- The host presents the command word whose low `nbits` bits are those of `w` and whose other bits are 0, so that
the very next step executes it (log entry 2). -/
def State.withFetchWord (s : State) (nbits w : Nat) : State :=
  s.present (BitVec.ofNat 32 (w % 2 ^ nbits))

end Sys2Proof.Machine
end

