-- ==== Sys2Proof/Safety.lean ====
section
/-! DEFINITION. The terms in which claims speak of the machine: runs, what a port sample executes, safe states, and
the block as one function of the packed value, written from the closed forms of the spec alone. -/

namespace Sys2Proof

/-! ## Kinds of commands -/

/-- The command is SETPOS. -/
def Instr.isSetpos : Instr → Bool
  | .setpos _ _ _ => true
  | _ => false

/-- The command is SETVEL. -/
def Instr.isSetvel : Instr → Bool
  | .setvel _ => true
  | _ => false

/-- The command is DESER. -/
def Instr.isDeser : Instr → Bool
  | .deser _ _ _ => true
  | _ => false

/-- The command replaces the whole register: CLR or DESER (10_state.md R26). -/
def Instr.isWholeWrite : Instr → Bool
  | .clr => true
  | .deser _ _ _ => true
  | _ => false

/-- The command writes the register (10_state.md R26; 30_encoding.md R63, column "writes S"). -/
def Instr.isWriter (i : Instr) : Bool := i.isSetpos || i.isSetvel || i.isWholeWrite

/-- No setter, and no DESER of a buffer whose checksum does not match. -/
def Instr.keepsValid : Instr → Bool
  | .setpos _ _ _ => false
  | .setvel _ => false
  | .deser b0 b1 b2 => Machine.Snapshot.isValid ⟨b0, b1, b2⟩
  | _ => true

end Sys2Proof

namespace Sys2Proof.Machine

/-! ## Runs -/

/-- The state with the input samples `ps` still to come, and nothing after them. -/
def State.withInputs (s : State) (ps : List PortIn) : State := { s with inputs := ps }

/-- `n` clock cycles from `s`. -/
def State.after (s : State) (n : Nat) : Host.Outcome State Fault Refusal := Sys2Proof.core.run n s

/-- Feeding the samples `ps`, one per cycle, to the block in state `s` ends in `t`. -/
def State.feeds (s : State) (ps : List PortIn) (t : State) : Prop := (s.withInputs ps).after ps.length = .next t

/-- The samples of a host that presents the words `ws` in consecutive cycles. -/
def commandSamples (ws : List CmdWord) : List PortIn := ws.map PortIn.command

/-- The commands `is` executed one after another, with no cycle between. -/
def execAll : List Instr → State → Host.Outcome State Fault Refusal
  | [], s => .next s
  | i :: is, s =>
    match exec i s with
    | .next t => execAll is t
    | .fault r => .fault r
    | .refused r => .refused r

/-- The operands of the last SETPOS of a list of commands (49_laws.md R122). -/
def lastPos : List Instr → Option (Nat × Nat × Nat)
  | [] => none
  | i :: is =>
    match lastPos is, i with
    | some p, _ => some p
    | none, .setpos a b c => some (a, b, c)
    | none, _ => none

/-- The operand of the last SETVEL of a list of commands (49_laws.md R122). -/
def lastVel : List Instr → Option Int
  | [] => none
  | i :: is =>
    match lastVel is, i with
    | some v, _ => some v
    | none, .setvel v => some v
    | none, _ => none

/-- A cycle with `rst = 1` and `cmd_valid = 0`. -/
def PortIn.resetOnly : PortIn := ⟨true, false, 0#32⟩

/-! ## What a sample executes -/

/-- The command the block executes in a cycle with these ports, if any (30_encoding.md R60). -/
def PortIn.executes (p : PortIn) : Option Instr :=
  if p.rst || !p.cmdValid then none else (decode p.cmd).instr?

/-- The position fields of `s` outlast a cycle with these ports: no reset, CLR, DESER or SETPOS. -/
def PortIn.keepsPosition (p : PortIn) : Bool :=
  !p.rst && (p.executes.all fun i => !i.isSetpos && !i.isWholeWrite)

/-- The velocity of `s` outlasts a cycle with these ports: no reset, CLR, DESER or SETVEL. -/
def PortIn.keepsVelocity (p : PortIn) : Bool :=
  !p.rst && (p.executes.all fun i => !i.isSetvel && !i.isWholeWrite)

/-! ## Safe states -/

/-- The checksum slot is 0 and no DESER is to come: nothing can put a stored checksum into the register
(42_transfer.md R102, corner case c). -/
def State.slotStaysZero (s : State) : Prop :=
  s.snap.storedCsum = 0#4 ∧ ∀ p ∈ s.inputs, p.executes.all (fun i => !i.isDeser) = true

/-- The register is valid and nothing to come can make it invalid: no setter (40_setters.md R87) and no DESER of an
invalid buffer (42_transfer.md R102). -/
def State.staysValid (s : State) : Prop :=
  s.snap.isValid = true ∧ ∀ p ∈ s.inputs, p.executes.all Instr.keepsValid = true

/-- What the output ports may show: an ILLEGAL response carries data 0 (30_encoding.md R62). -/
def State.rspLegal (s : State) : Prop := ∀ r, s.rsp = some r → r.status = .illegal → r.data = 0#24

/-! ## The block as one function of the packed value

Written from the closed forms (40_setters.md R82, R84; 41_checksum.md R90, R93; 42_transfer.md R100; 10_state.md R24;
30_encoding.md R61 to R68), sharing no definition with the meanings. -/

/-- The setters' closed forms: `(P & 0xFF8000) | (yt << 10) | (xs << 6) | xt` (40_setters.md R82). -/
def packedSetpos (p : Packed) (a b c : Nat) : Packed :=
  (p &&& 0xFF8000#24) ||| (BitVec.ofNat 24 (min c 31) <<< 10) ||| (BitVec.ofNat 24 (min b 15) <<< 6)
    ||| BitVec.ofNat 24 (min a 63)

/-- `(P & 0xF07FFF) | (enc << 15)`, `enc` the low five bits of the clamped operand (40_setters.md R84). -/
def packedSetvel (p : Packed) (v : Int) : Packed :=
  (p &&& 0xF07FFF#24) ||| ((BitVec.ofInt 24 (max (-16) (min 15 v)) &&& 0x1F#24) <<< 15)

/-- The XOR of nibbles 0 to 4 of the packed value (41_checksum.md R90). -/
def packedCsum (p : Packed) : Packed :=
  (p ^^^ (p >>> 4) ^^^ (p >>> 8) ^^^ (p >>> 12) ^^^ (p >>> 16)) &&& 0x00000F#24

/-- The XOR of all six nibbles is zero (41_checksum.md R93). -/
def packedValid (p : Packed) : Bool := packedCsum p ^^^ (p >>> 20) == 0#24

/-- `(P & 0x0FFFFF) | (csum << 20)` (42_transfer.md R100). -/
def packedSer (p : Packed) : Packed := (p &&& 0x0FFFFF#24) ||| (packedCsum p <<< 20)

/-- The position fields of the packed value, one in each byte (10_state.md R24; 30_encoding.md R67). -/
def packedPos (p : Packed) : Packed :=
  (p &&& 0x00003F#24) ||| (((p >>> 6) &&& 0x00000F#24) <<< 8) ||| (((p >>> 10) &&& 0x00001F#24) <<< 16)

/-- The velocity pattern of the packed value as a two's-complement byte (43_decode.md R111). -/
def packedVel (p : Packed) : Packed :=
  ((p >>> 15) &&& 0x00001F#24) ||| (if (p >>> 19) &&& 1#24 = 1#24 then 0x0000E0#24 else 0#24)

/-- `step(S, cmd) = (S', rsp)` of 30_encoding.md R60 and 00_scope.md R17, on packed values and port words. -/
def mealy (p : Packed) (w : CmdWord) : Packed × RspWord :=
  if w &&& 0x0F000000#32 ≠ 0#32 then (p, 0x10000000#32)
  else
    match (w >>> 28).toNat with
    | 0x1 => (0#24, 0#32)
    | 0x2 => (packedSetpos p (w.toNat % 256) (w.toNat / 256 % 256) (w.toNat / 65536 % 256), 0#32)
    | 0x3 => (packedSetvel p (w.setWidth 8).toInt, 0#32)
    | 0x4 => (p, (packedCsum p).setWidth 32)
    | 0x5 => (p, if packedValid p then 1#32 else 0#32)
    | 0x6 => (p, (packedSer p).setWidth 32)
    | 0x7 => (w.setWidth 24, 0#32)
    | 0x8 => (p, p.setWidth 32)
    | 0x9 => (p, (packedPos p).setWidth 32)
    | 0xA => (p, (packedVel p).setWidth 32)
    | _ => (p, 0x10000000#32)

/-- The left fold of `mealy` over a host's command list (20_memory.md R49). -/
def mealyFold (p : Packed) (ws : List CmdWord) : Packed := ws.foldl (fun q w => (mealy q w).1) p

end Sys2Proof.Machine
end

