-- ==== Sys2Proof/Certificates/Slice0/Obligations.lean ====
section
/-! DEFINITION. The statements for the provers. Where a docstring says "the spec's own derivation" or "the spec's own
decision", the spec marks the sentence so itself. A buffer or a register value is written `[b0, b1, b2]`. Clauses about
the field `inputs`, and that the last response stands in the field `rsp`, say what the model's own fields do (log
entries 1 to 3), never a rule of the spec. -/

open Sys2Proof Sys2Proof.Machine

/-! ## Encoding -/

/-- 30_encoding.md section 7: `decode(encode(i)) = i` for every command that a word can carry (the spec's own
derivation, R71). -/
def Obligations.DecodeOfEncodeIsTheCommand : Prop :=
  ∀ i : Instr, i.wellFormed = true → decode (encode i) = .cmd i

/-- 30_encoding.md section 7: `encode(decode(w)) = w` for every legal word whose ignored bits are 0, and every
decoded command is one a word can carry (the spec's own derivation, R71). -/
def Obligations.EncodeOfDecodeIsTheWord : Prop :=
  ∀ (w : CmdWord) (i : Instr), decode w = .cmd i →
    i.wellFormed = true ∧ (w &&& i.ignoredMask = 0#32 → encode i = w)

/-- 30_encoding.md section 4: the opcode map row by row, each row at every payload (the spec's own decision, R63,
R65, R71). -/
def Obligations.OpcodeMapRowByRow : Prop :=
  ∀ p2 p1 p0 : Byte,
    decode (0x10#8 ++ p2 ++ p1 ++ p0) = .cmd .clr ∧
    decode (0x20#8 ++ p2 ++ p1 ++ p0) = .cmd (.setpos p0.toNat p1.toNat p2.toNat) ∧
    decode (0x30#8 ++ p2 ++ p1 ++ p0) = .cmd (.setvel p0.toInt) ∧
    decode (0x40#8 ++ p2 ++ p1 ++ p0) = .cmd .csum ∧
    decode (0x50#8 ++ p2 ++ p1 ++ p0) = .cmd .valid ∧
    decode (0x60#8 ++ p2 ++ p1 ++ p0) = .cmd .ser ∧
    decode (0x70#8 ++ p2 ++ p1 ++ p0) = .cmd (.deser p0 p1 p2) ∧
    decode (0x80#8 ++ p2 ++ p1 ++ p0) = .cmd .raw ∧
    decode (0x90#8 ++ p2 ++ p1 ++ p0) = .cmd .getpos ∧
    decode (0xA0#8 ++ p2 ++ p1 ++ p0) = .cmd .getvel

/-- 30_encoding.md R68, whole: which words are illegal, what one does, that nothing is latched, and how many words
are legal. -/
def Obligations.IllegalWordsDoNothing : Prop :=
  (∀ w : CmdWord, decode w = .illegal ↔
      ((cmdOp w).toNat = 0x0 ∨ (0xB ≤ (cmdOp w).toNat ∧ (cmdOp w).toNat ≤ 0xF) ∨ cmdRsvd w ≠ 0#4)) ∧
  (∀ (s : State) (w : CmdWord), decode w = .illegal →
      step (s.present w) = .next { s with rsp := some ⟨.illegal, 0x000000#24⟩ }) ∧
  (∀ (s : State) (w v : CmdWord), decode w = .illegal →
      ((s.present v).present w).after 2 = (s.present v).after 1) ∧
  decode 0x00000000#32 = .illegal ∧ decode 0xFFFFFFFF#32 = .illegal ∧
  Nat.card { w : CmdWord // decode w ≠ .illegal } = 10 * 2 ^ 24

/-- 30_encoding.md R69, whole: payload bits marked ignored affect neither the legality of the word nor the new state
nor the response, and the canonical encoding has 0 in every one of them. -/
def Obligations.IgnoredPayloadBitsHaveNoEffect : Prop :=
  (∀ (w v : CmdWord) (i : Instr), decode w = .cmd i → (w ^^^ v) &&& ~~~i.ignoredMask = 0#32 →
      decode v = .cmd i ∧ ∀ s : State, step (s.present v) = step (s.present w)) ∧
  (∀ i : Instr, encode i &&& i.ignoredMask = 0#32) ∧
  decode 0x10ABCDEF#32 = .cmd .clr

/-- 30_encoding.md section 8: the assembler's word of each of the ten commands as a number, and the operands that are
an error, by number: above 255 for SETPOS, below -128 or above 127 for SETVEL; no other operand is one (the spec's own
decision, R72). -/
def Obligations.AssemblerWordsAsNumbers : Prop :=
  (∀ a b c : Nat, (assemble (.setpos a b c)).map BitVec.toNat =
      if 255 < a ∨ 255 < b ∨ 255 < c then none else some (0x20000000 + c * 65536 + b * 256 + a)) ∧
  (∀ v : Int, (assemble (.setvel v)).map BitVec.toNat =
      if v < -128 ∨ 127 < v then none else some (0x30000000 + (v % 256).toNat)) ∧
  (∀ a b c : Byte, (assemble (.deser a b c)).map BitVec.toNat =
      some (0x70000000 + c.toNat * 65536 + b.toNat * 256 + a.toNat)) ∧
  assemble .clr = some 0x10000000#32 ∧ assemble .csum = some 0x40000000#32 ∧ assemble .valid = some 0x50000000#32 ∧
  assemble .ser = some 0x60000000#32 ∧ assemble .raw = some 0x80000000#32 ∧ assemble .getpos = some 0x90000000#32 ∧
  assemble .getvel = some 0xA0000000#32

/-- Words written out from the spec's encodings and what they stand for (95_test_vectors.md sections 1 and 2.6). -/
def Obligations.WrittenOutWordsDecode : Prop :=
  decode 0x10000000#32 = .cmd .clr ∧ decode 0x2008050A#32 = .cmd (.setpos 10 5 8) ∧
  decode 0x300000FB#32 = .cmd (.setvel (-5)) ∧ decode 0x3012FF03#32 = .cmd (.setvel 3) ∧
  decode 0x40123456#32 = .cmd .csum ∧ decode 0x708DA14A#32 = .cmd (.deser 0x4A#8 0xA1#8 0x8D#8) ∧
  decode 0xA0000001#32 = .cmd .getvel ∧ decode 0x2108050A#32 = .illegal ∧ decode 0xB0000000#32 = .illegal

/-! ## The step -/

/-- When the word presented at the clock edge decodes to a command, the step is that command's meaning, on the state
with the sample taken; an illegal word, an idle cycle and a reset cycle are what the ports section says they are
(30_encoding.md section 1; the list of samples is the model's, log entry 1). -/
def Obligations.StepRunsTheDecodedCommand : Prop :=
  (∀ (s : State) (w : CmdWord) (i : Instr) (rest : List PortIn),
      s.inputs = PortIn.command w :: rest → decode w = .cmd i → step s = exec i { s with inputs := rest }) ∧
  (∀ (s : State) (w : CmdWord) (rest : List PortIn),
      s.inputs = PortIn.command w :: rest → decode w = .illegal →
      step s = .next { s with inputs := rest, rsp := some ⟨.illegal, 0#24⟩ }) ∧
  (∀ (s : State) (w : CmdWord) (rest : List PortIn),
      s.inputs = ⟨false, false, w⟩ :: rest → step s = .next { s with inputs := rest, rsp := none }) ∧
  (∀ (s : State) (v : Bool) (w : CmdWord) (rest : List PortIn),
      s.inputs = ⟨true, v, w⟩ :: rest →
      step s = .next { snap := ⟨0#8, 0#8, 0#8⟩, inputs := rest, rsp := none }) ∧
  (∀ s : State, s.inputs = [] → step s = .next { s with rsp := none })

/-- 60_exceptions.md R140, whole: no command faults or is refused, every legal command completes and answers OK on
every register value and operand value, and a run of any length is a run of next states. -/
def Obligations.NothingEverFaults : Prop :=
  (∀ (i : Instr) (s : State), ∃ t, exec i s = .next t ∧ ∃ d, t.rsp = some ⟨.ok, d⟩) ∧
  (∀ (s : State) (n : Nat), ∃ t, s.after n = .next t)

/-- The step is the Mealy machine of the ports section: on packed values and port words it is `mealy`, which is
written from the closed forms alone, in a command cycle; the identity without response in an idle cycle; zero without
response in a reset cycle (30_encoding.md section 1 and 00_scope.md section 5; the spec's own decision, D1). -/
def Obligations.BlockRefinesThePackedMealyMachine : Prop :=
  ∀ (s : State) (p : PortIn) (rest : List PortIn), s.inputs = p :: rest →
    ∃ t, step s = .next t ∧ t.inputs = rest ∧
      (t.snap.packed, t.rsp.map Response.word) =
        if p.rst then (0x000000#24, none)
        else if p.cmdValid then ((mealy s.snap.packed p.cmd).1, some (mealy s.snap.packed p.cmd).2)
        else (s.snap.packed, none)

/-- 20_memory.md section 2: a program has exactly one execution, the left fold of the step over its list; command
n+1 sees the register as command n left it (the spec's own decision, R49, D16). -/
def Obligations.CommandSequenceIsALeftFold : Prop :=
  ∀ (s : State) (ws vs : List CmdWord),
    ∃ t, s.feeds (commandSamples ws) t ∧ t.inputs = [] ∧ t.snap.packed = mealyFold s.snap.packed ws ∧
      (∀ t', s.feeds (commandSamples ws) t' → t' = t) ∧
      (∀ u, s.feeds (commandSamples (ws ++ vs)) u ↔ t.feeds (commandSamples vs) u)

/-- The response word (30_encoding.md sections 3 and 5; the spec's own decision, R62, R67): an executed word is
answered in its own cycle by a word with status 0 or 1 in bits 31:28, 1 iff the word is illegal, 0 in bits 27:24, and
in bits 23:0 the result of the command as the table of response data lays it out, 0 for an illegal word; the response
depends on the word and on `S` before the step alone. -/
def Obligations.ResponseWordLayout : Prop :=
  (∀ (s : State) (w : CmdWord), ∃ t r, step (s.present w) = .next t ∧ t.rsp = some r ∧
      r.word.extractLsb' 28 4 = (if decode w = .illegal then 0x1#4 else 0x0#4) ∧
      r.word.extractLsb' 24 4 = 0#4 ∧
      r.word.extractLsb' 0 24 =
        (match decode w with
          | .illegal => 0x000000#24
          | .cmd .clr => 0x000000#24
          | .cmd (.setpos _ _ _) => 0x000000#24
          | .cmd (.setvel _) => 0x000000#24
          | .cmd .csum => 0#20 ++ s.snap.csum
          | .cmd .valid => if s.snap.storedCsum = s.snap.csum then 0x000001#24 else 0x000000#24
          | .cmd .ser => s.snap.csum ++ s.snap.b2.extractLsb' 0 4 ++ s.snap.b1 ++ s.snap.b0
          | .cmd (.deser _ _ _) => 0x000000#24
          | .cmd .raw => s.snap.b2 ++ s.snap.b1 ++ s.snap.b0
          | .cmd .getpos => 0#3 ++ s.snap.yTile ++ 0#4 ++ s.snap.xSub ++ 0#2 ++ s.snap.xTile
          | .cmd .getvel => 0#16 ++ s.snap.velEnc.signExtend 8)) ∧
  (∀ (s₁ s₂ : State) (w : CmdWord), s₁.snap = s₂.snap →
      ∃ t₁ t₂, step (s₁.present w) = .next t₁ ∧ step (s₂.present w) = .next t₂ ∧ t₁.rsp = t₂.rsp)

/-- `rsp_valid = cmd_valid & ~rst`, and the block accepts a command in every cycle without reset (30_encoding.md
section 1, 70_reset_and_hazards.md section 3; the spec's own decision, R60, R166). -/
def Obligations.ResponseValidExactlyInCommandCycles : Prop :=
  ∀ (s : State) (p : PortIn) (rest : List PortIn), s.inputs = p :: rest →
    ∃ t, step s = .next t ∧ t.rspValid = (p.cmdValid && !p.rst) ∧ t.inputs = rest

/-! ## Reset, idle, power-up -/

/-- 70_reset_and_hazards.md R160, whole: at an edge with `rst = 1` the register becomes 0 whatever `cmd_valid` and
`cmd` are, without a response; one edge is enough, and the command in the next cycle already runs. -/
def Obligations.ResetWinsOverACommand : Prop :=
  (∀ (s : State) (v : Bool) (w : CmdWord) (rest : List PortIn),
      ∃ t, step (s.withInputs (⟨true, v, w⟩ :: rest)) = .next t ∧
        t.snap.packed = 0x000000#24 ∧ t.rsp = none ∧ t.rspValid = false ∧ t.inputs = rest) ∧
  (∀ (s : State) (v : Bool) (w u : CmdWord) (i : Instr), decode u = .cmd i →
      (s.withInputs [⟨true, v, w⟩, PortIn.command u]).after 2 = exec i State.reset)

/-- 70_reset_and_hazards.md R161, whole: what reset leaves, and what the six reading commands answer after it. -/
def Obligations.ResetLeavesAValidZeroSnapshot : Prop :=
  (∀ s : State, s.resetCycle.snap = State.reset.snap ∧ exec .clr s = .next (s.answerWrite State.reset.snap)) ∧
  State.reset.snap.xTile = 0#6 ∧ State.reset.snap.xSub = 0#4 ∧ State.reset.snap.yTile = 0#5 ∧
  State.reset.snap.vel = 0 ∧ State.reset.snap.storedCsum = 0#4 ∧ State.reset.snap.csum = 0#4 ∧
  State.reset.snap.isValid = true ∧
  (∀ i ∈ [Instr.raw, .ser, .getpos, .getvel, .csum],
      exec i State.reset = .next { State.reset with rsp := some ⟨.ok, 0x000000#24⟩ }) ∧
  exec .valid State.reset = .next { State.reset with rsp := some ⟨.ok, 0x000001#24⟩ }

/-- Before the first reset the register has an unspecified value; reset, CLR or DESER brings the block to a known
state from it, and every command still completes (70_reset_and_hazards.md section 1; the spec's own decision, D10;
the power-up state is the model's, log entry 4, and the statement holds for every value of it). -/
def Obligations.AnyPowerUpValueCanBeInitialised : Prop :=
  ∀ n : Nat,
    (State.powerUp n).feeds [PortIn.resetOnly] State.reset ∧
    (∃ t, (State.powerUp n).feeds [PortIn.command 0x10000000#32] t ∧ t.snap = State.reset.snap) ∧
    (∀ p2 p1 p0 : Byte, ∃ t, (State.powerUp n).feeds [PortIn.command (0x70#8 ++ p2 ++ p1 ++ p0)] t ∧
      t.snap = ⟨p0, p1, p2⟩) ∧
    (∀ i : Instr, ∃ t, exec i (State.powerUp n) = .next t)

/-- `S` changes only in a reset cycle or in one that executes CLR, SETPOS, SETVEL or DESER: an idle cycle, a reading
command and an illegal word leave every bit (10_state.md section 8; the spec's own derivation, R35). -/
def Obligations.OnlyWritersAndResetChangeTheRegister : Prop :=
  ∀ (s t : State) (p : PortIn) (rest : List PortIn), s.inputs = p :: rest → step s = .next t → t.snap ≠ s.snap →
    p.rst = true ∨ ∃ i, p.executes = some i ∧ i.isWriter = true

/-! ## Fields and helpers -/

/-- 10_state.md R23, whole: where every bit of every field stands, and the velocity's reading and range. -/
def Obligations.FieldBitsStandWhereTheTableSays : Prop :=
  ∀ s : Snapshot,
    (∀ k < 6, s.xTile.getLsbD k = s.b0.getLsbD k) ∧
    (∀ k < 2, s.xSub.getLsbD k = s.b0.getLsbD (k + 6) ∧ s.xSub.getLsbD (k + 2) = s.b1.getLsbD k) ∧
    (∀ k < 5, s.yTile.getLsbD k = s.b1.getLsbD (k + 2)) ∧
    s.velEnc.getLsbD 0 = s.b1.getLsbD 7 ∧
    (∀ k, 1 ≤ k → k < 5 → s.velEnc.getLsbD k = s.b2.getLsbD (k - 1)) ∧
    (∀ k < 4, s.storedCsum.getLsbD k = s.b2.getLsbD (k + 4)) ∧
    s.vel = s.velEnc.toInt ∧ -16 ≤ s.vel ∧ s.vel ≤ 15

/-- The snapshot as one little-endian integer: `P = checksum : velocity : y_tile : x_sub : x_tile`, the same 24 bits
as the three bytes (30_encoding.md section 9, 10_state.md section 2; the spec's own derivation, R24, R74). -/
def Obligations.PackedValueIsTheFieldsInOrder : Prop :=
  (∀ s : Snapshot,
      s.packed = s.storedCsum ++ s.velEnc ++ s.yTile ++ s.xSub ++ s.xTile ∧
      s.packed.toNat = s.b0.toNat + 256 * s.b1.toNat + 65536 * s.b2.toNat ∧
      s.dataBits = s.velEnc ++ s.yTile ++ s.xSub ++ s.xTile ∧
      Snapshot.ofPacked s.packed = s) ∧
  (∀ p : Packed, (Snapshot.ofPacked p).packed = p)

/-- 00_scope.md R10 and R11, whole: the two saturating casts, on all integers. -/
def Obligations.ClampsSaturate : Prop :=
  (∀ v max : Nat, clampU v max = min v max ∧ (v ≤ max → clampU v max = v) ∧ (¬ v ≤ max → clampU v max = max)) ∧
  (∀ a b c : Nat, clampPos a b c = (min a 63, min b 15, min c 31)) ∧ clampU 64 63 = 63 ∧
  (∀ v : Int, clampS5 v = max (-16) (min 15 v) ∧ (v < -16 → clampS5 v = -16) ∧ (v > 15 → clampS5 v = 15) ∧
    (-16 ≤ v → v ≤ 15 → clampS5 v = v))

/-- 00_scope.md R12 and R13, whole: the 5-bit two's-complement pattern and its inverse. -/
def Obligations.VelocityPatternIsTwosComplement : Prop :=
  (∀ w : Int, -16 ≤ w → w ≤ 15 →
      ((enc5 w).toNat : Int) = (if 0 ≤ w then w else w + 32) ∧ dec5 (enc5 w) = w ∧
      ∀ n : Nat, 5 ≤ n → (BitVec.ofInt n w).setWidth 5 = enc5 w) ∧
  (∀ u : Byte, -16 ≤ u.toInt → u.toInt ≤ 15 → (enc5 u.toInt).setWidth 8 = u &&& 0x1F#8) ∧
  (∀ e : BitVec 5, dec5 e = (if e.toNat < 16 then (e.toNat : Int) else (e.toNat : Int) - 32) ∧
      -16 ≤ dec5 e ∧ dec5 e ≤ 15 ∧ enc5 (dec5 e) = e) ∧
  enc5 (-5) = 0b11011#5

/-! ## CLR and the setters -/

/-- 40_setters.md R80, whole: CLR at every payload, from every state. -/
def Obligations.ClrZeroesTheSnapshot : Prop :=
  (∀ s : State, exec .clr s = .next { s with snap := ⟨0x00#8, 0x00#8, 0x00#8⟩, rsp := some ⟨.ok, 0x000000#24⟩ } ∧
      (s.snap = ⟨0x00#8, 0x00#8, 0x00#8⟩ → ∃ t, exec .clr s = .next t ∧ t.snap = s.snap)) ∧
  (let z : Snapshot := ⟨0x00#8, 0x00#8, 0x00#8⟩
   z.xTile = 0#6 ∧ z.xSub = 0#4 ∧ z.yTile = 0#5 ∧ z.vel = 0 ∧ z.storedCsum = 0#4 ∧ z.isValid = true ∧
   State.reset.snap = z) ∧
  encode .clr = 0x10000000#32 ∧ (∀ p : Packed, decode (0x10#8 ++ p) = .cmd .clr) ∧
  (⟨.ok, 0x000000#24⟩ : Response).word = 0x00000000#32

/-- 40_setters.md R81, whole: SETPOS from every state with every operand triple completes, places the clamped
operands bit by bit, keeps byte1 bit 7 and byte2, answers OK with data 0; its encoding, its corner cases, its
example. -/
def Obligations.SetposPlacesTheClampedPosition : Prop :=
  (∀ (s : State) (a b c : Nat), ∃ t, exec (.setpos a b c) s = .next t ∧
      (∀ k < 6, t.snap.b0.getLsbD k = (min a 63).testBit k) ∧
      (∀ k < 2, t.snap.b0.getLsbD (k + 6) = (min b 15).testBit k ∧ t.snap.b1.getLsbD k = (min b 15).testBit (k + 2)) ∧
      (∀ k < 5, t.snap.b1.getLsbD (k + 2) = (min c 31).testBit k) ∧
      t.snap.b1.getLsbD 7 = s.snap.b1.getLsbD 7 ∧ t.snap.b2 = s.snap.b2 ∧
      t.inputs = s.inputs ∧ t.rsp = some ⟨.ok, 0x000000#24⟩ ∧
      exec (.setpos a b c) t = .next t) ∧
  (∀ p2 p1 p0 : Byte, decode (0x20#8 ++ p2 ++ p1 ++ p0) = .cmd (.setpos p0.toNat p1.toNat p2.toNat) ∧
      encode (.setpos p0.toNat p1.toNat p2.toNat) = 0x20#8 ++ p2 ++ p1 ++ p0) ∧
  (∀ s : State, exec (.setpos 200 200 200) s = exec (.setpos 63 15 31) s ∧
      exec (.setpos 64 16 32) s = exec (.setpos 63 15 31) s ∧
      exec (.setpos 255 255 255) s = exec (.setpos 63 15 31) s) ∧
  (∀ s : State, s.snap = ⟨0xFF#8, 0xFF#8, 0xFF#8⟩ →
      ∃ t, exec (.setpos 0 0 0) s = .next t ∧ t.snap = ⟨0x00#8, 0x80#8, 0xFF#8⟩) ∧
  (∀ s : State, s.snap = ⟨0x00#8, 0x00#8, 0x00#8⟩ →
      ∃ t, exec (.setpos 10 5 8) s = .next t ∧ t.snap = ⟨0x4A#8, 0x21#8, 0x00#8⟩)

/-- The closed form of SETPOS on the packed value and in bytes, and the fields after the step (40_setters.md section
3; the spec's own derivation, R82). -/
def Obligations.SetposClosedForm : Prop :=
  ∀ (s : State) (a b c : Nat), ∃ t, exec (.setpos a b c) s = .next t ∧
    t.snap.b0 = ((BitVec.ofNat 8 (min b 15) &&& 0x03#8) <<< 6) ||| BitVec.ofNat 8 (min a 63) ∧
    t.snap.b1 = (s.snap.b1 &&& 0x80#8) ||| (BitVec.ofNat 8 (min c 31) <<< 2) ||| (BitVec.ofNat 8 (min b 15) >>> 2) ∧
    t.snap.b2 = s.snap.b2 ∧ t.snap.packed = packedSetpos s.snap.packed a b c ∧
    t.snap.xTile.toNat = min a 63 ∧ t.snap.xSub.toNat = min b 15 ∧ t.snap.yTile.toNat = min c 31 ∧
    t.snap.velEnc = s.snap.velEnc ∧ t.snap.storedCsum = s.snap.storedCsum

/-- 40_setters.md R83, whole: SETVEL from every state with every operand completes, clamps first and masks second,
places the pattern bit by bit, keeps byte0, byte1 bits 0-6 and byte2 bits 4-7, answers OK with data 0; its encoding,
its corner cases, its example. -/
def Obligations.SetvelPlacesTheClampedVelocity : Prop :=
  (∀ (s : State) (v : Int), ∃ t, exec (.setvel v) s = .next t ∧
      t.snap.b1.getLsbD 7 = (BitVec.ofInt 5 (max (-16) (min 15 v))).getLsbD 0 ∧
      (∀ k < 4, t.snap.b2.getLsbD k = (BitVec.ofInt 5 (max (-16) (min 15 v))).getLsbD (k + 1)) ∧
      t.snap.b0 = s.snap.b0 ∧ (∀ k < 7, t.snap.b1.getLsbD k = s.snap.b1.getLsbD k) ∧
      (∀ k < 4, t.snap.b2.getLsbD (k + 4) = s.snap.b2.getLsbD (k + 4)) ∧
      t.inputs = s.inputs ∧ t.rsp = some ⟨.ok, 0x000000#24⟩ ∧
      exec (.setvel v) t = .next t) ∧
  (∀ p2 p1 p0 : Byte, decode (0x30#8 ++ p2 ++ p1 ++ p0) = .cmd (.setvel p0.toInt) ∧
      encode (.setvel p0.toInt) = 0x300000#24 ++ p0) ∧
  (∀ (s : State) (v : Int), (15 < v → exec (.setvel v) s = exec (.setvel 15) s) ∧
      (v < -16 → exec (.setvel v) s = exec (.setvel (-16)) s)) ∧
  (∀ (s : State) (v : Int) (t : State), exec (.setvel v) s = .next t →
      (v = -1 → t.snap.b1.getLsbD 7 = true ∧ t.snap.b2 &&& 0x0F#8 = 0x0F#8) ∧
      (v = 0 → t.snap.velEnc = 0b00000#5) ∧ (15 ≤ v → t.snap.velEnc = 0b01111#5) ∧
      (v ≤ -16 → t.snap.b1.getLsbD 7 = false ∧ t.snap.b2 &&& 0x0F#8 = 0x08#8) ∧
      (t.snap.b2.getLsbD 3 = true ↔ v < 0) ∧
      (-16 ≤ v → v ≤ 15 → (t.snap.b1.getLsbD 7 = true ↔ v % 2 = 1))) ∧
  (∀ s : State, s.snap = ⟨0x4A#8, 0x21#8, 0x00#8⟩ →
      ∃ t, exec (.setvel (-5)) s = .next t ∧ t.snap = ⟨0x4A#8, 0xA1#8, 0x0D#8⟩)

/-- The closed form of SETVEL on the packed value and in bytes, the fields after the step, and the table of all 32
patterns (40_setters.md section 4; the spec's own derivation, R84). -/
def Obligations.SetvelClosedForm : Prop :=
  ∀ (s : State) (v : Int), ∃ t, exec (.setvel v) s = .next t ∧
    t.snap.b0 = s.snap.b0 ∧
    t.snap.b1 = (s.snap.b1 &&& 0x7F#8) ||| (((BitVec.ofInt 8 (max (-16) (min 15 v)) &&& 0x1F#8) &&& 1#8) <<< 7) ∧
    t.snap.b2 = (s.snap.b2 &&& 0xF0#8) ||| ((BitVec.ofInt 8 (max (-16) (min 15 v)) &&& 0x1F#8) >>> 1) ∧
    t.snap.packed = packedSetvel s.snap.packed v ∧
    t.snap.vel = max (-16) (min 15 v) ∧
    t.snap.xTile = s.snap.xTile ∧ t.snap.xSub = s.snap.xSub ∧ t.snap.yTile = s.snap.yTile ∧
    t.snap.storedCsum = s.snap.storedCsum ∧
    (0 ≤ v → v ≤ 15 → (t.snap.b2 &&& 0x0F#8).toNat = v.toNat / 2) ∧
    (-16 ≤ v → v < 0 → (t.snap.b2 &&& 0x0F#8).toNat = (v + 32).toNat / 2)

/-- 40_setters.md R86, whole: each setter changes only the bits of the fields it owns. -/
def Obligations.SettersDisturbNothingElse : Prop :=
  (∀ (s : State) (a b c : Nat), ∃ t, exec (.setpos a b c) s = .next t ∧
      t.snap.packed.extractLsb' 15 9 = s.snap.packed.extractLsb' 15 9 ∧
      t.snap.velEnc = s.snap.velEnc ∧ t.snap.storedCsum = s.snap.storedCsum) ∧
  (∀ (s : State) (v : Int), ∃ t, exec (.setvel v) s = .next t ∧
      t.snap.packed.extractLsb' 0 15 = s.snap.packed.extractLsb' 0 15 ∧
      t.snap.packed.extractLsb' 20 4 = s.snap.packed.extractLsb' 20 4 ∧
      t.snap.xTile = s.snap.xTile ∧ t.snap.xSub = s.snap.xSub ∧ t.snap.yTile = s.snap.yTile) ∧
  (∀ old mask value : Byte, placeBits old mask value = (old &&& ~~~mask) ||| value)

/-- 60_exceptions.md R141, whole: an operand out of range is clamped, each operand on its own, and leaves no other
trace: the state is the one the clamped operand gives, and the response is OK with data 0. -/
def Obligations.RangeViolationIsASilentClamp : Prop :=
  (∀ (s : State) (a b c : Nat),
      exec (.setpos a b c) s = exec (.setpos (min a 63) (min b 15) (min c 31)) s ∧
      ∃ t, exec (.setpos a b c) s = .next t ∧ t.rsp = some ⟨.ok, 0x000000#24⟩ ∧
        (63 < a → t.snap.xTile = 63#6) ∧ (15 < b → t.snap.xSub = 15#4) ∧ (31 < c → t.snap.yTile = 31#5)) ∧
  (∀ (s : State) (v : Int),
      exec (.setvel v) s = exec (.setvel (max (-16) (min 15 v))) s ∧
      ∃ t, exec (.setvel v) s = .next t ∧ t.rsp = some ⟨.ok, 0x000000#24⟩ ∧
        (15 < v → t.snap.vel = 15) ∧ (v < -16 → t.snap.vel = -16))

/-- Two operands give the same result iff they clamp to the same value (49_laws.md section 2; the spec's own
derivation, R123). -/
def Obligations.SettersAreInjectiveAfterTheClamp : Prop :=
  (∀ (s : State) (a b c a' b' c' : Nat), exec (.setpos a b c) s = exec (.setpos a' b' c') s ↔
      min a 63 = min a' 63 ∧ min b 15 = min b' 15 ∧ min c 31 = min c' 31) ∧
  (∀ (s : State) (v v' : Int), exec (.setvel v) s = exec (.setvel v') s ↔
      max (-16) (min 15 v) = max (-16) (min 15 v'))

/-- SETPOS and SETVEL commute, bit for bit (49_laws.md section 1; the spec's own derivation, R121). -/
def Obligations.SettersCommute : Prop :=
  ∀ (s : State) (a b c : Nat) (v : Int), ∃ t,
    execAll [.setpos a b c, .setvel v] s = .next t ∧ execAll [.setvel v, .setpos a b c] s = .next t ∧
    t.snap.packed = (s.snap.packed &&& 0xF00000#24)
      ||| ((BitVec.ofInt 24 (max (-16) (min 15 v)) &&& 0x1F#24) <<< 15)
      ||| (BitVec.ofNat 24 (min c 31) <<< 10) ||| (BitVec.ofNat 24 (min b 15) <<< 6) ||| BitVec.ofNat 24 (min a 63)

/-- Last writer wins: after any sequence of setters the register is the first one with its position fields replaced
by those of the last SETPOS, if any, and its velocity by that of the last SETVEL, if any (49_laws.md section 1; the
spec's own derivation, R122). -/
def Obligations.LastSetterOfEachKindWins : Prop :=
  ∀ (is : List Instr) (s : State), (∀ i ∈ is, (i.isSetpos || i.isSetvel) = true) →
    ∃ t, execAll is s = .next t ∧ t.inputs = s.inputs ∧
      (t.snap.xTile.toNat, t.snap.xSub.toNat, t.snap.yTile.toNat) =
        (match lastPos is with
          | some (a, b, c) => (min a 63, min b 15, min c 31)
          | none => (s.snap.xTile.toNat, s.snap.xSub.toNat, s.snap.yTile.toNat)) ∧
      t.snap.vel = (match lastVel is with
          | some v => max (-16) (min 15 v)
          | none => s.snap.vel) ∧
      t.snap.storedCsum = s.snap.storedCsum

/-- From reset, the setters build exactly the 2^20 values with stored checksum 0; DESER reaches every value in one
step (49_laws.md section 7; the spec's own derivation, R132). -/
def Obligations.SettersBuildExactlyTheZeroSlotSnapshots : Prop :=
  (∀ x : Snapshot, x.storedCsum = 0#4 ↔
      ∃ (is : List Instr) (t : State), (∀ i ∈ is, (i.isSetpos || i.isSetvel) = true ∧ i.wellFormed = true) ∧
        execAll is State.reset = .next t ∧ t.snap = x) ∧
  Nat.card { x : Snapshot // x.storedCsum = 0#4 } = 2 ^ 20 ∧
  (∀ (x : Snapshot) (s : State), ∃ t, exec (.deser x.b0 x.b1 x.b2) s = .next t ∧ t.snap = x)

/-! ## Checksum and validity -/

/-- 41_checksum.md R90, whole: CSUM answers the XOR of the five data nibbles and writes nothing; the function reads
the 20 data bits alone; the groups' field bits; the corner cases and the example. -/
def Obligations.CsumAnswersTheXorOfTheDataNibbles : Prop :=
  (∀ s : State, exec .csum s = .next { s with rsp := some ⟨.ok,
      (nib s.snap.packed 0 ^^^ nib s.snap.packed 1 ^^^ nib s.snap.packed 2 ^^^ nib s.snap.packed 3 ^^^
        nib s.snap.packed 4).setWidth 24⟩ }) ∧
  (∀ x : Snapshot, x.csum.setWidth 8 =
      (x.b0 &&& 0x0F#8) ^^^ (x.b0 >>> 4) ^^^ (x.b1 &&& 0x0F#8) ^^^ (x.b1 >>> 4) ^^^ (x.b2 &&& 0x0F#8)) ∧
  (∀ x y : Snapshot, x.dataBits = y.dataBits → x.csum = y.csum) ∧
  (∀ x : Snapshot, nib x.packed 1 = x.xSub.extractLsb' 0 2 ++ x.xTile.extractLsb' 4 2 ∧
      nib x.packed 2 = x.yTile.extractLsb' 0 2 ++ x.xSub.extractLsb' 2 2 ∧
      nib x.packed 3 = x.velEnc.extractLsb' 0 1 ++ x.yTile.extractLsb' 2 3 ∧
      nib x.packed 4 = x.velEnc.extractLsb' 1 4) ∧
  (∀ (x : Snapshot) (l : List (BitVec 4)), l.Perm ((List.range 5).map (nib x.packed)) →
      l.foldl (· ^^^ ·) 0#4 = x.csum) ∧
  (Snapshot.ofPacked 0x000000#24).csum = 0x0#4 ∧
  (∀ x : Snapshot, x.dataBits = 0xFFFFF#20 → x.csum = 0xF#4) ∧
  encode .csum = 0x40000000#32 ∧ (∀ p : Packed, decode (0x40#8 ++ p) = .cmd .csum) ∧
  (Snapshot.mk 0x4A#8 0xA1#8 0x0D#8).csum = 0x8#4

/-- Each checksum bit is the parity of one column of five data bits, and the checksum is linear over XOR
(41_checksum.md section 1; the spec's own derivation, R91). -/
def Obligations.ChecksumIsColumnParityAndLinear : Prop :=
  (∀ (x : Snapshot), ∀ j < 4, x.csum.getLsbD j =
      (x.packed.getLsbD j ^^ x.packed.getLsbD (j + 4) ^^ x.packed.getLsbD (j + 8) ^^ x.packed.getLsbD (j + 12) ^^
        x.packed.getLsbD (j + 16))) ∧
  (∀ p q : Packed, (Snapshot.ofPacked (p ^^^ q)).csum = (Snapshot.ofPacked p).csum ^^^ (Snapshot.ofPacked q).csum)

/-- VALID answers 1 when the stored checksum equals the computed one and 0 when not, and writes nothing
(41_checksum.md section 2, R92). -/
def Obligations.ValidAnswersTheComparison : Prop :=
  (∀ s : State, exec .valid s = .next { s with rsp := some ⟨.ok,
      if s.snap.packed.extractLsb' 20 4 =
        nib s.snap.packed 0 ^^^ nib s.snap.packed 1 ^^^ nib s.snap.packed 2 ^^^ nib s.snap.packed 3 ^^^
          nib s.snap.packed 4
      then 0x000001#24 else 0x000000#24⟩ }) ∧
  State.reset.snap.isValid = true ∧
  (Snapshot.mk 0x4A#8 0xA1#8 0x8D#8).isValid = true ∧ (Snapshot.mk 0x4A#8 0xA1#8 0x0D#8).isValid = false

/-- A snapshot is valid iff the XOR of its six nibbles is 0; each value of the data bits has exactly one matching
checksum, so 2^20 values are valid (41_checksum.md section 2; the spec's own derivation, R93). -/
def Obligations.ValidityIsSixNibbleParity : Prop :=
  (∀ x : Snapshot, x.isValid = true ↔
      nib x.packed 0 ^^^ nib x.packed 1 ^^^ nib x.packed 2 ^^^ nib x.packed 3 ^^^ nib x.packed 4 ^^^
        nib x.packed 5 = 0#4) ∧
  (∀ d : BitVec 20, ∃! c : BitVec 4, (Snapshot.ofPacked (c ++ d)).isValid = true) ∧
  Nat.card { x : Snapshot // x.isValid = true } = 2 ^ 20

/-- An error pattern on a valid snapshot goes undetected iff the XOR of its six nibbles is 0: every single-bit error
is detected, a two-bit error is not iff both bits lie in one column; 60 of the 276 two-bit patterns and 2^20 - 1
patterns in all escape (41_checksum.md section 3; the spec's own derivation, R94, 90_conflicts.md C3). -/
def Obligations.ErrorDetectionIsExact : Prop :=
  (∀ p e : Packed, (Snapshot.ofPacked p).isValid = true →
      ((Snapshot.ofPacked (p ^^^ e)).isValid = true ↔
        nib e 0 ^^^ nib e 1 ^^^ nib e 2 ^^^ nib e 3 ^^^ nib e 4 ^^^ nib e 5 = 0#4)) ∧
  (∀ p : Packed, (Snapshot.ofPacked p).isValid = true →
      (∀ i < 24, (Snapshot.ofPacked (p ^^^ BitVec.twoPow 24 i)).isValid = false) ∧
      (∀ i j, i < j → j < 24 →
        ((Snapshot.ofPacked (p ^^^ BitVec.twoPow 24 i ^^^ BitVec.twoPow 24 j)).isValid = true ↔ i % 4 = j % 4))) ∧
  (((List.range 24).product (List.range 24)).filter fun ij => decide (ij.1 < ij.2)).length = 276 ∧
  (((List.range 24).product (List.range 24)).filter fun ij =>
    decide (ij.1 < ij.2) && (Snapshot.ofPacked (BitVec.twoPow 24 ij.1 ^^^ BitVec.twoPow 24 ij.2)).isValid).length = 60 ∧
  Nat.card { e : Packed // e ≠ 0#24 ∧ (Snapshot.ofPacked e).isValid = true } = 2 ^ 20 - 1

/-- The stored checksum steers no command but VALID and RAW, which report it, and no command but CLR and DESER writes
it: on a register that differs in the checksum slot alone (so valid on one side, invalid on the other) every command
leaves the same data bits, and every command but those two gives the same response (10_state.md section 3 and
41_checksum.md section 2; the spec's own derivation, R26). -/
def Obligations.StoredChecksumSteersNothing : Prop :=
  ∀ (i : Instr) (s₁ s₂ : State), s₁.snap.dataBits = s₂.snap.dataBits →
    ∃ t₁ t₂, exec i s₁ = .next t₁ ∧ exec i s₂ = .next t₂ ∧ t₁.snap.dataBits = t₂.snap.dataBits ∧
      (i ≠ .valid → i ≠ .raw → t₁.rsp = t₂.rsp) ∧
      (i.isWholeWrite = false → t₁.snap.storedCsum = s₁.snap.storedCsum ∧ t₂.snap.storedCsum = s₂.snap.storedCsum)

/-- The stale-checksum hazard: after CLR and any setters VALID answers 1 iff the computed checksum of the new data is
0, although nothing is corrupt; the example (70_reset_and_hazards.md section 3, 40_setters.md section 5; the spec's
own derivation, R87, R168). -/
def Obligations.SettersLeaveTheChecksumStale : Prop :=
  (∀ (is : List Instr) (s : State), (∀ i ∈ is, (i.isSetpos || i.isSetvel) = true) →
      ∃ t u, execAll (.clr :: is) s = .next t ∧ t.snap.storedCsum = 0#4 ∧ exec .valid t = .next u ∧
        u.rsp = some ⟨.ok, if t.snap.csum = 0#4 then 1#24 else 0#24⟩) ∧
  (∀ s : State, ∃ t u, execAll [.clr, .setpos 10 5 8, .setvel (-5)] s = .next t ∧
      t.snap = ⟨0x4A#8, 0xA1#8, 0x0D#8⟩ ∧ t.snap.csum = 0x8#4 ∧ exec .valid t = .next u ∧ u.rsp = some ⟨.ok, 0#24⟩)

/-! ## Transfer -/

/-- 42_transfer.md R100, whole: SER answers byte0, byte1 and byte2 with its high nibble replaced by the computed
checksum, and does not write the register; the corner cases and the example. -/
def Obligations.SerAnswersTheBufferWithAFreshChecksum : Prop :=
  (∀ s : State, ∃ t d, exec .ser s = .next t ∧ t = { s with rsp := some ⟨.ok, d⟩ } ∧
      d.extractLsb' 0 8 = s.snap.b0 ∧ d.extractLsb' 8 8 = s.snap.b1 ∧
      d.extractLsb' 16 4 = s.snap.b2.extractLsb' 0 4 ∧ d.extractLsb' 20 4 = s.snap.csum ∧
      d = (s.snap.packed &&& 0x0FFFFF#24) ||| (s.snap.csum.setWidth 24 <<< 20) ∧
      (Snapshot.ofPacked d).isValid = true ∧ (s.snap.isValid = true → d = s.snap.packed) ∧
      (∃ u, exec (.deser (d.extractLsb' 0 8) (d.extractLsb' 8 8) (d.extractLsb' 16 8)) t = .next u ∧
        u.snap.storedCsum = s.snap.csum ∧ u.snap.dataBits = s.snap.dataBits ∧
        ∃ v, exec .ser u = .next v ∧ v.rsp = some ⟨.ok, d⟩)) ∧
  (∀ s₁ s₂ : State, s₁.snap.dataBits = s₂.snap.dataBits →
      ∃ t₁ t₂, exec .ser s₁ = .next t₁ ∧ exec .ser s₂ = .next t₂ ∧ t₁.rsp = t₂.rsp) ∧
  encode .ser = 0x60000000#32 ∧ (∀ p : Packed, decode (0x60#8 ++ p) = .cmd .ser) ∧
  (∀ s : State, s.snap = ⟨0x00#8, 0x00#8, 0x00#8⟩ →
      exec .ser s = .next { s with rsp := some ⟨.ok, 0x000000#24⟩ }) ∧
  (∀ s : State, s.snap = ⟨0x4A#8, 0xA1#8, 0x0D#8⟩ →
      exec .ser s = .next { s with rsp := some ⟨.ok, 0x8DA14A#24⟩ })

/-- 42_transfer.md R102, whole: DESER copies its three bytes verbatim from any state, never validates, answers OK
with data 0; the corner cases and the examples. -/
def Obligations.DeserCopiesTheBufferVerbatim : Prop :=
  (∀ (s : State) (x y z : Byte),
      exec (.deser x y z) s = .next { s with snap := ⟨x, y, z⟩, rsp := some ⟨.ok, 0x000000#24⟩ }) ∧
  (∀ p2 p1 p0 : Byte, decode (0x70#8 ++ p2 ++ p1 ++ p0) = .cmd (.deser p0 p1 p2) ∧
      encode (.deser p0 p1 p2) = 0x70#8 ++ p2 ++ p1 ++ p0) ∧
  (∀ s : State, exec (.deser 0x00#8 0x00#8 0x00#8) s = exec .clr s) ∧
  (∀ (i : Instr) (s t : State), exec i s = .next t → s.snap.storedCsum = 0#4 → t.snap.storedCsum ≠ 0#4 →
      i.isDeser = true) ∧
  (∀ (s : State) (x y z : Byte), (Snapshot.mk x y z).isValid = false →
      ∃ t, exec (.deser x y z) s = .next t ∧ t.snap.isValid = false ∧ ∀ i, ∃ u, exec i t = .next u) ∧
  (∀ s s' : State, ∃ t d u, exec .raw s = .next t ∧ t.rsp = some ⟨.ok, d⟩ ∧
      exec (.deser (d.extractLsb' 0 8) (d.extractLsb' 8 8) (d.extractLsb' 16 8)) s' = .next u ∧ u.snap = s.snap) ∧
  (∀ s s' : State, ∃ t d u, exec .ser s = .next t ∧ t.rsp = some ⟨.ok, d⟩ ∧
      exec (.deser (d.extractLsb' 0 8) (d.extractLsb' 8 8) (d.extractLsb' 16 8)) s' = .next u ∧
      u.snap.dataBits = s.snap.dataBits ∧ u.snap.storedCsum = s.snap.csum) ∧
  (Snapshot.mk 0x4A#8 0xA1#8 0x8D#8).isValid = true ∧ (Snapshot.mk 0x4B#8 0xA1#8 0x8D#8).isValid = false ∧
  (Snapshot.mk 0x4B#8 0xA1#8 0x8D#8).csum = 0x9#4

/-- 42_transfer.md R104, whole: RAW answers the register as it stands; it agrees with SER iff the register is valid;
after reset or CLR it answers 0; the example. -/
def Obligations.RawAnswersTheRegisterVerbatim : Prop :=
  (∀ s : State, exec .raw s = .next { s with rsp := some ⟨.ok, s.snap.packed⟩ }) ∧
  (∀ s : State, exec .raw s = exec .ser s ↔ s.snap.isValid = true) ∧
  exec .raw State.reset = .next { State.reset with rsp := some ⟨.ok, 0x000000#24⟩ } ∧
  (∀ s : State, ∃ t, execAll [.clr, .raw] s = .next t ∧ t.rsp.map Response.word = some 0x00000000#32) ∧
  encode .raw = 0x80000000#32 ∧ (∀ p : Packed, decode (0x80#8 ++ p) = .cmd .raw) ∧
  (∀ s : State, s.snap = ⟨0x4A#8, 0xA1#8, 0x0D#8⟩ →
      ∃ t, exec .raw s = .next t ∧ t.rsp.map Response.word = some 0x000DA14A#32)

/-- The round trip: SER, then DESER of the bytes it answered, from any register value, keeps byte0, byte1 and the low
nibble of byte2, hence every field, stores the fresh checksum, and VALID then answers 1; the result equals the
register before iff that was valid (42_transfer.md section 1, 49_laws.md section 4; the spec's own derivation, R101,
R126, R127). -/
def Obligations.SerializeRoundTripIsLosslessAndValid : Prop :=
  ∀ s : State, ∃ t d u v, exec .ser s = .next t ∧ t.rsp = some ⟨.ok, d⟩ ∧ t.snap = s.snap ∧
    exec (.deser (d.extractLsb' 0 8) (d.extractLsb' 8 8) (d.extractLsb' 16 8)) t = .next u ∧
    u.snap.b0 = s.snap.b0 ∧ u.snap.b1 = s.snap.b1 ∧ u.snap.b2 &&& 0x0F#8 = s.snap.b2 &&& 0x0F#8 ∧
    u.snap.xTile = s.snap.xTile ∧ u.snap.xSub = s.snap.xSub ∧ u.snap.yTile = s.snap.yTile ∧ u.snap.vel = s.snap.vel ∧
    u.snap.storedCsum = s.snap.csum ∧ (u.snap = s.snap ↔ s.snap.isValid = true) ∧
    exec .valid u = .next v ∧ v.rsp = some ⟨.ok, 0x000001#24⟩

/-- Corruption on the wire: SER, flip one bit of the 24, DESER, VALID answers 0; flip two different bits, VALID
answers 1 iff their indices agree modulo 4 (49_laws.md section 5; the spec's own derivation, R129). -/
def Obligations.WireCorruptionIsReportedByValid : Prop :=
  ∀ s : State, ∃ t d, exec .ser s = .next t ∧ t.rsp = some ⟨.ok, d⟩ ∧
    (∀ i < 24, ∀ e : Packed, e = d ^^^ BitVec.twoPow 24 i →
      ∃ u v, exec (.deser (e.extractLsb' 0 8) (e.extractLsb' 8 8) (e.extractLsb' 16 8)) t = .next u ∧
        exec .valid u = .next v ∧ v.rsp = some ⟨.ok, 0#24⟩) ∧
    (∀ i < 24, ∀ j < 24, i ≠ j → ∀ e : Packed, e = d ^^^ BitVec.twoPow 24 i ^^^ BitVec.twoPow 24 j →
      ∃ u v, exec (.deser (e.extractLsb' 0 8) (e.extractLsb' 8 8) (e.extractLsb' 16 8)) t = .next u ∧
        exec .valid u = .next v ∧ v.rsp = some ⟨.ok, if i % 4 = j % 4 then 1#24 else 0#24⟩)

/-! ## Accessors -/

/-- 43_decode.md R110, whole: GETPOS answers the three position fields, one zero-extended byte each, and writes
nothing; the corner cases and the example. -/
def Obligations.GetposAnswersThePositionFields : Prop :=
  (∀ s : State, ∃ t d, exec .getpos s = .next t ∧ t = { s with rsp := some ⟨.ok, d⟩ } ∧
      d.extractLsb' 0 8 = s.snap.b0 &&& 0x3F#8 ∧
      d.extractLsb' 8 8 = ((s.snap.b1 &&& 0x03#8) <<< 2) ||| (s.snap.b0 >>> 6) ∧
      d.extractLsb' 16 8 = (s.snap.b1 >>> 2) &&& 0x1F#8 ∧
      d.toNat = s.snap.xTile.toNat + 256 * s.snap.xSub.toNat + 65536 * s.snap.yTile.toNat ∧
      (s.snap.b1 = 0xFF#8 → d.extractLsb' 16 8 = 31#8) ∧
      (s.snap = ⟨0x00#8, 0x00#8, 0x00#8⟩ → d = 0x000000#24) ∧ d.extractLsb' 16 8 ≤ 0x1F#8 ∧
      d.extractLsb' 8 8 ≤ 0x0F#8 ∧ d.extractLsb' 0 8 ≤ 0x3F#8 ∧ d ≤ 0x1F0F3F#24) ∧
  encode .getpos = 0x90000000#32 ∧ (∀ p : Packed, decode (0x90#8 ++ p) = .cmd .getpos) ∧
  (∀ s : State, s.snap = ⟨0x4A#8, 0xA1#8, 0x0D#8⟩ →
      exec .getpos s = .next { s with rsp := some ⟨.ok, 0x08050A#24⟩ })

/-- 43_decode.md R111, whole: GETVEL answers the velocity sign-extended from 5 to 8 bits and not beyond, and writes
nothing; the corner cases and the example. -/
def Obligations.GetvelAnswersTheSignExtendedVelocity : Prop :=
  (∀ s : State, ∃ t d, exec .getvel s = .next t ∧ t = { s with rsp := some ⟨.ok, d⟩ } ∧
      (d.extractLsb' 0 8).toInt = s.snap.vel ∧ d.extractLsb' 0 8 = s.snap.velEnc.signExtend 8 ∧
      d.extractLsb' 8 16 = 0#16 ∧
      d.extractLsb' 0 8 = (let e := ((s.snap.b2 &&& 0x0F#8) <<< 1) ||| (s.snap.b1 >>> 7)
                           if e.toNat < 16 then e else e ||| 0xE0#8) ∧
      (s.snap.velEnc = 16#5 → d = 0x0000F0#24) ∧ (s.snap.velEnc = 31#5 → d = 0x0000FF#24) ∧
      (s.snap.velEnc = 15#5 → d = 0x00000F#24) ∧ (s.snap.velEnc = 0#5 → d = 0x000000#24) ∧
      (s.snap.b2 = 0xF0#8 → s.snap.b1 = 0x00#8 → d = 0x000000#24)) ∧
  encode .getvel = 0xA0000000#32 ∧ (∀ p : Packed, decode (0xA0#8 ++ p) = .cmd .getvel) ∧
  (∀ s : State, s.snap = ⟨0x4A#8, 0xA1#8, 0x0D#8⟩ →
      exec .getvel s = .next { s with rsp := some ⟨.ok, 0x0000FB#24⟩ })

/-- 43_decode.md R112, whole: the accessors return what is stored, not what was asked for; they apply no validity
check and never write the register. -/
def Obligations.AccessorsReturnWhatIsStored : Prop :=
  (∀ s : State, ∃ t, execAll [.setpos 200 200 200, .getpos] s = .next t ∧ t.rsp = some ⟨.ok, 0x1F0F3F#24⟩) ∧
  (∀ i ∈ [Instr.getpos, .getvel], ∀ s₁ s₂ : State, s₁.snap.dataBits = s₂.snap.dataBits →
      ∃ t₁ t₂ d, exec i s₁ = .next t₁ ∧ exec i s₂ = .next t₂ ∧ t₁.snap = s₁.snap ∧ t₂.snap = s₂.snap ∧
        t₁.rsp = some ⟨.ok, d⟩ ∧ t₂.rsp = some ⟨.ok, d⟩)

/-- Set then get, whatever cycles come between but reset, CLR, DESER and a setter of the same kind: GETPOS answers
the clamped operands of the SETPOS, GETVEL the byte of the clamped operand of the SETVEL (49_laws.md section 6; the
spec's own derivation, R130). -/
def Obligations.SetThenGetReturnsTheClampedOperands : Prop :=
  (∀ (s : State) (a b c : Nat) (ps : List PortIn), (Instr.setpos a b c).wellFormed = true →
      (∀ p ∈ ps, p.keepsPosition = true) →
      ∃ t d, s.feeds (PortIn.command (encode (.setpos a b c)) :: ps ++ [PortIn.command (encode .getpos)]) t ∧
        t.rsp = some ⟨.ok, d⟩ ∧ d.toNat = min a 63 + 256 * min b 15 + 65536 * min c 31) ∧
  (∀ (s : State) (v : Int) (ps : List PortIn), (Instr.setvel v).wellFormed = true →
      (∀ p ∈ ps, p.keepsVelocity = true) →
      ∃ t d, s.feeds (PortIn.command (encode (.setvel v)) :: ps ++ [PortIn.command (encode .getvel)]) t ∧
        t.rsp = some ⟨.ok, d⟩ ∧ d = (BitVec.ofInt 8 (max (-16) (min 15 v))).setWidth 24)

/-- Get then set: feeding the data of a GETPOS or GETVEL response back as the operands of the matching setter leaves
the register as it was (49_laws.md section 6; the spec's own derivation, R131). -/
def Obligations.GetThenSetChangesNothing : Prop :=
  ∀ s : State,
    (∃ t d u, exec .getpos s = .next t ∧ t.rsp = some ⟨.ok, d⟩ ∧
      exec (.setpos (d.extractLsb' 0 8).toNat (d.extractLsb' 8 8).toNat (d.extractLsb' 16 8).toNat) t = .next u ∧
      u.snap = s.snap) ∧
    (∃ t d u, exec .getvel s = .next t ∧ t.rsp = some ⟨.ok, d⟩ ∧
      exec (.setvel (sval8 (d.extractLsb' 0 8))) t = .next u ∧ u.snap = s.snap)

/-! ## All commands together -/

/-- 20_memory.md R45, whole: a reading command leaves the register and repeats its response as long as nothing is
written in between; a writing command issued twice in a row leaves what it leaves once. -/
def Obligations.ReadsArePureAndWritesIdempotent : Prop :=
  (∀ (i : Instr) (js : List Instr) (s : State), i.isWriter = false → (∀ j ∈ js, j.isWriter = false) →
      ∃ t, exec i s = .next t ∧ t.snap = s.snap ∧ execAll (js ++ [i]) s = .next t) ∧
  (∀ (i : Instr) (s : State), i.isWriter = true → ∃ t, execAll [i] s = .next t ∧ execAll [i, i] s = .next t)

/-- The access matrix: what each command reads (its response is the same on two registers that agree on the fields it
reads), what it writes (the written fields do not depend on their old values) and what it keeps; an illegal word reads
and writes nothing (10_state.md section 3; the spec's own derivation, R26). -/
def Obligations.AccessMatrix : Prop :=
  ∀ s₁ s₂ : State,
    (∀ i ∈ [Instr.csum, .ser], s₁.snap.xTile = s₂.snap.xTile → s₁.snap.xSub = s₂.snap.xSub →
      s₁.snap.yTile = s₂.snap.yTile → s₁.snap.velEnc = s₂.snap.velEnc →
      ∃ t₁ t₂, exec i s₁ = .next t₁ ∧ exec i s₂ = .next t₂ ∧ t₁.rsp = t₂.rsp) ∧
    (s₁.snap.xTile = s₂.snap.xTile → s₁.snap.xSub = s₂.snap.xSub → s₁.snap.yTile = s₂.snap.yTile →
      ∃ t₁ t₂, exec .getpos s₁ = .next t₁ ∧ exec .getpos s₂ = .next t₂ ∧ t₁.rsp = t₂.rsp) ∧
    (s₁.snap.velEnc = s₂.snap.velEnc →
      ∃ t₁ t₂, exec .getvel s₁ = .next t₁ ∧ exec .getvel s₂ = .next t₂ ∧ t₁.rsp = t₂.rsp) ∧
    (∀ i ∈ [Instr.valid, .raw], s₁.snap.xTile = s₂.snap.xTile → s₁.snap.xSub = s₂.snap.xSub →
      s₁.snap.yTile = s₂.snap.yTile → s₁.snap.velEnc = s₂.snap.velEnc → s₁.snap.storedCsum = s₂.snap.storedCsum →
      ∃ t₁ t₂, exec i s₁ = .next t₁ ∧ exec i s₂ = .next t₂ ∧ t₁.rsp = t₂.rsp) ∧
    (∀ w : CmdWord, decode w = .illegal → ∃ t₁ t₂, step (s₁.present w) = .next t₁ ∧ step (s₂.present w) = .next t₂ ∧
      t₁.rsp = t₂.rsp ∧ t₁.snap = s₁.snap ∧ t₂.snap = s₂.snap) ∧
    (∀ i : Instr, ∃ t₁ t₂, exec i s₁ = .next t₁ ∧ exec i s₂ = .next t₂ ∧
      (i.isWriter = false → t₁.snap = s₁.snap) ∧
      (i.isWriter = true → t₁.rsp = t₂.rsp) ∧
      (i.isWholeWrite = true → t₁.snap = t₂.snap) ∧
      (i.isSetpos = true → t₁.snap.xTile = t₂.snap.xTile ∧ t₁.snap.xSub = t₂.snap.xSub ∧
        t₁.snap.yTile = t₂.snap.yTile ∧ t₁.snap.velEnc = s₁.snap.velEnc ∧
        t₁.snap.storedCsum = s₁.snap.storedCsum) ∧
      (i.isSetvel = true → t₁.snap.velEnc = t₂.snap.velEnc ∧ t₁.snap.xTile = s₁.snap.xTile ∧
        t₁.snap.xSub = s₁.snap.xSub ∧ t₁.snap.yTile = s₁.snap.yTile ∧
        t₁.snap.storedCsum = s₁.snap.storedCsum))

/-! ## Invariants -/

/-- Every step keeps: the checksum slot is 0 while no DESER is to come (42_transfer.md section 2, 10_state.md
section 3: only DESER puts a non-zero value there). The list of samples to come is the model's, log entry 1. -/
def Obligations.StepKeepsTheSlotZeroWithoutDeser : Prop :=
  ∀ s t : State, s.slotStaysZero → step s = .next t → t.slotStaysZero

/-- Every step keeps: a valid register stays valid while no setter and no DESER of an invalid buffer is to come
(41_checksum.md section 2, 40_setters.md section 5). The list of samples to come is the model's, log entry 1. -/
def Obligations.StepKeepsValidityWithoutSetters : Prop :=
  ∀ s t : State, s.staysValid → step s = .next t → t.staysValid

/-- Every step keeps: an ILLEGAL response carries data 0 (30_encoding.md section 3). That the last response is part
of the state is the model's choice, log entry 3. -/
def Obligations.StepKeepsIllegalResponsesEmpty : Prop :=
  ∀ s t : State, s.rspLegal → step s = .next t → t.rspLegal

/-- The three invariants hold at reset. The empty list of samples and the absent response there are the model's
choice, log entries 2 and 3. -/
def Obligations.ResetMeetsTheInvariants : Prop :=
  State.reset.slotStaysZero ∧ State.reset.staysValid ∧ State.reset.rspLegal
end

