-- ==== Sys2Proof/Laws/Config.lean ====
section
/-! SUPPORT. The parameters of 00_scope.md R6 are the widths and values the model is written with. -/

namespace Sys2Proof.Laws

open Sys2Proof.Machine

theorem cmdWord_width : CmdWord = BitVec Config.cmdW := rfl

theorem rspWord_width : RspWord = BitVec Config.rspW := rfl

theorem operand_width : Byte = BitVec Config.wIn := rfl

theorem unsignedFits_iff (v : Nat) : unsignedFits v = true ↔ v ≤ 255 := by
  have h : unsignedFits v = decide (v < 256) := rfl
  rw [h, decide_eq_true_eq]
  omega

theorem signedFits_iff (v : Int) : signedFits v = true ↔ -128 ≤ v ∧ v ≤ 127 := by
  have h : signedFits v = (decide (-128 ≤ v) && decide (v < 128)) := rfl
  rw [h, Bool.and_eq_true, decide_eq_true_eq, decide_eq_true_eq]
  omega

/-- The assembler answers the encoder's word for a well-formed command and nothing else (30_encoding.md R72). -/
theorem assemble_eq_some_iff (i : Instr) (w : CmdWord) : assemble i = some w ↔ i.wellFormed = true ∧ encode i = w := by
  simp [assemble]

@[simp] theorem reset_snap : State.reset.snap = ⟨0x00#8, 0x00#8, 0x00#8⟩ := by decide

@[simp] theorem reset_inputs : State.reset.inputs = [] := rfl

@[simp] theorem reset_rsp : State.reset.rsp = none := rfl

end Sys2Proof.Laws
end

