-- ==== Sys2Proof/Laws/Decode.lean ====
section
/-! SUPPORT. The fields of a command word and of the words the encoder writes. -/

namespace Sys2Proof.Laws

theorem getLsbD_lanes (a b c : Byte) (i : Nat) (h : i < 32) : (lanes a b c).getLsbD i =
    (if i < 8 then a.getLsbD i else if i < 16 then b.getLsbD (i - 8) else if i < 24 then c.getLsbD (i - 16)
      else false) := by
  interval_cases i <;> simp [lanes]

theorem cmdOp_or_lanes (m : CmdWord) (a b c : Byte) : cmdOp (m ||| lanes a b c) = cmdOp m := by
  apply BitVec.eq_of_getLsbD_eq
  intro i hi
  simp only [cmdOp, BitVec.getLsbD_extractLsb', BitVec.getLsbD_or]
  rw [getLsbD_lanes _ _ _ _ (by omega)]
  interval_cases i <;> simp

theorem cmdRsvd_or_lanes (m : CmdWord) (a b c : Byte) : cmdRsvd (m ||| lanes a b c) = cmdRsvd m := by
  apply BitVec.eq_of_getLsbD_eq
  intro i hi
  simp only [cmdRsvd, BitVec.getLsbD_extractLsb', BitVec.getLsbD_or]
  rw [getLsbD_lanes _ _ _ _ (by omega)]
  interval_cases i <;> simp

/-- A word whose reserved field is 0 decodes by its opcode alone (30_encoding.md R71). -/
theorem decode_of_rsvd_zero {w : CmdWord} (h : cmdRsvd w = 0#4) : decode w = decodeOp (cmdOp w).toNat w := by
  simp [decode, h]

theorem decode_of_rsvd_ne {w : CmdWord} (h : cmdRsvd w ≠ 0#4) : decode w = .illegal := by
  simp [decode, h]

end Sys2Proof.Laws
end

