-- ==== Sys2Proof/Laws/Ops.lean ====
section
/-! SUPPORT. What each shared operation does, said once: bit by bit for the views of a snapshot, case by case for
the input ports. -/

namespace Sys2Proof.Laws

open Sys2Proof.Machine

/-! ## Bits

In the form simp gives a bit at a known index, `v[i]`. -/

/-- A placed bit is the value's, or an old one outside the mask (40_setters.md R86). -/
@[simp] theorem getElem_placeBits (old mask value : Byte) (i : Nat) (h : i < 8) :
    (placeBits old mask value)[i] = ((old[i] && !mask[i]) || value[i]) := by
  simp [placeBits]

/-- Outside the mask, where the value is 0, the old bit stays. -/
theorem placeBits_keeps {old mask value : Byte} {i : Nat} (h : i < 8) (hm : mask[i] = false)
    (hv : value[i] = false) : (placeBits old mask value)[i] = old[i] := by
  simp [hm, hv]

/-- Under the mask the bit is the value's. -/
theorem placeBits_places {old mask value : Byte} {i : Nat} (h : i < 8) (hm : mask[i] = true) :
    (placeBits old mask value)[i] = value[i] := by
  simp [hm]

/-- Bit `i` of three concatenated bytes. -/
theorem getLsbD_three_bytes (x2 x1 x0 : Byte) (i : Nat) : (x2 ++ x1 ++ x0).getLsbD i =
    (if i < 8 then x0.getLsbD i else if i < 16 then x1.getLsbD (i - 8) else x2.getLsbD (i - 16)) := by
  simp only [BitVec.getLsbD_append]
  by_cases h0 : i < 8
  · simp only [h0, if_true]
  · by_cases h1 : i < 16
    · have h2 : i - 8 < 8 := by omega
      simp only [h0, h1, h2, if_true, if_false]
    · have h2 : ¬ i - 8 < 8 := by omega
      have e : i - 8 - 8 = i - 16 := by omega
      simp only [h0, h1, h2, e, if_false]

/-- Bit `i` of the packed value is a bit of byte0, byte1 or byte2 (00_scope.md R9). -/
theorem getLsbD_packed (x : Snapshot) (i : Nat) : x.packed.getLsbD i =
    (if i < 8 then x.b0.getLsbD i else if i < 16 then x.b1.getLsbD (i - 8) else x.b2.getLsbD (i - 16)) :=
  getLsbD_three_bytes _ _ _ _

/-- The same, in the form simp gives a bit at a known index. -/
@[simp] theorem getElem_packed (x : Snapshot) (i : Nat) (h : i < 24) : x.packed[i] =
    (if h0 : i < 8 then x.b0[i] else if h1 : i < 16 then x.b1[i - 8] else x.b2[i - 16]) := by
  rw [← BitVec.getLsbD_eq_getElem, getLsbD_packed]
  by_cases h0 : i < 8
  · simp [h0]
  · by_cases h1 : i < 16
    · simp [h0, h1, BitVec.getLsbD_eq_getElem (show i - 8 < 8 by omega)]
    · simp [h0, h1, BitVec.getLsbD_eq_getElem (show i - 16 < 8 by omega)]

/-- Response data of three bytes is their concatenation (30_encoding.md R67). -/
theorem data3_eq_append (d0 d1 d2 : Byte) : data3 d0 d1 d2 = d2 ++ d1 ++ d0 := by
  apply BitVec.eq_of_getLsbD_eq
  intro i hi
  rw [getLsbD_three_bytes]
  interval_cases i <;> simp [data3]

/-- The data of SER and RAW is the packed value of the buffer (20_memory.md R41). -/
@[simp] theorem asData_eq_packed (x : Snapshot) : x.asData = x.packed := data3_eq_append _ _ _

@[simp] theorem packed_extract_b0 (x : Snapshot) : x.packed.extractLsb' 0 8 = x.b0 := by
  apply BitVec.eq_of_getLsbD_eq
  intro i hi
  interval_cases i <;> simp

@[simp] theorem packed_extract_b1 (x : Snapshot) : x.packed.extractLsb' 8 8 = x.b1 := by
  apply BitVec.eq_of_getLsbD_eq
  intro i hi
  interval_cases i <;> simp

@[simp] theorem packed_extract_b2 (x : Snapshot) : x.packed.extractLsb' 16 8 = x.b2 := by
  apply BitVec.eq_of_getLsbD_eq
  intro i hi
  interval_cases i <;> simp

/-- A snapshot is its packed value (10_state.md R21). -/
theorem snapshot_eq_of_packed {x y : Snapshot} (h : x.packed = y.packed) : x = y := by
  have h0 := congrArg (BitVec.extractLsb' 0 8) h
  have h1 := congrArg (BitVec.extractLsb' 8 8) h
  have h2 := congrArg (BitVec.extractLsb' 16 8) h
  simp only [packed_extract_b0, packed_extract_b1, packed_extract_b2] at h0 h1 h2
  exact Snapshot.ext h0 h1 h2

/-! ## The response word -/

/-- Bits 31:28 of a response word are the status, bits 27:24 are 0, bits 23:0 are the data (30_encoding.md R62). -/
theorem response_word_fields (r : Response) : r.word.extractLsb' 28 4 = r.status.code ∧
    r.word.extractLsb' 24 4 = 0#4 ∧ r.word.extractLsb' 0 24 = r.data := by
  refine ⟨?_, ?_, ?_⟩ <;> apply BitVec.eq_of_getLsbD_eq <;> intro i hi <;>
    simp only [Response.word, BitVec.getLsbD_extractLsb', BitVec.getLsbD_append] <;> interval_cases i <;> simp

/-! ## Operands -/

theorem clampU_le (v max : Nat) : clampU v max ≤ max := by
  unfold clampU
  split <;> omega

theorem clampU_of_le {v max : Nat} (h : v ≤ max) : clampU v max = v := by
  simp [clampU, h]

theorem clampS5_range (v : Int) : -16 ≤ clampS5 v ∧ clampS5 v ≤ 15 := by
  unfold clampS5
  split
  · omega
  · split <;> omega

theorem clampS5_of_range {v : Int} (h : -16 ≤ v) (h' : v ≤ 15) : clampS5 v = v := by
  unfold clampS5
  split
  · omega
  · split <;> omega

/-- The pattern is the integer modulo 32, for an integer in range (00_scope.md R12). -/
theorem enc5_toNat {w : Int} (h : -16 ≤ w) (h' : w ≤ 15) : ((enc5 w).toNat : Int) = w % 32 := by
  unfold enc5
  rw [BitVec.toNat_ofNat]
  split <;> omega

theorem sval8_eq_toInt (u : Byte) : sval8 u = u.toInt := by decide +revert

theorem dec5_eq_toInt (e : BitVec 5) : dec5 e = e.toInt := by decide +revert

theorem sext8_eq_signExtend (e : BitVec 5) : sext8 e = e.signExtend 8 := by decide +revert

/-! ## The input ports -/

/-- All that sampling can do: nothing is to come and the ports are idle, or the oldest sample is taken. -/
theorem sample_cases (s : State) :
    (s.inputs = [] ∧ s.sample = (PortIn.idle, s)) ∨
    (∃ p rest, s.inputs = p :: rest ∧ s.sample = (p, { s with inputs := rest })) := by
  unfold State.sample
  cases h : s.inputs with
  | nil => exact .inl ⟨rfl, rfl⟩
  | cons p rest => exact .inr ⟨p, rest, rfl, rfl⟩

theorem sample_of_nil {s : State} (h : s.inputs = []) : s.sample = (PortIn.idle, s) := by
  simp [State.sample, h]

theorem sample_of_cons {s : State} {p : PortIn} {rest : List PortIn} (h : s.inputs = p :: rest) :
    s.sample = (p, { s with inputs := rest }) := by
  simp [State.sample, h]

end Sys2Proof.Laws
end

