-- ==== Sys2Proof/Laws/PerInstr.lean ====
section
/-! SUPPORT. Statements made of every command, one lemma per constructor. -/

namespace Sys2Proof.Laws.EncodeHeader

/-- Every row's `match` has a reserved field of 0 (30_encoding.md R63). -/
theorem matchWord_rsvd {i : Instr} : cmdRsvd i.matchWord = 0#4 := by
  cases i <;> simp [cmdRsvd, Instr.matchWord]

/-- The word the encoder writes has the row's opcode and a reserved field of 0 (30_encoding.md R61, R63). -/
def Statement (i : Instr) : Prop :=
  cmdOp (encode i) = cmdOp i.matchWord ∧ cmdRsvd (encode i) = 0#4

theorem clr : Statement .clr := ⟨by decide, by decide⟩

theorem setpos (a b c : Nat) : Statement (.setpos a b c) :=
  ⟨cmdOp_or_lanes _ _ _ _, (cmdRsvd_or_lanes _ _ _ _).trans matchWord_rsvd⟩

theorem setvel (v : Int) : Statement (.setvel v) :=
  ⟨cmdOp_or_lanes _ _ _ _, (cmdRsvd_or_lanes _ _ _ _).trans matchWord_rsvd⟩

theorem csum : Statement .csum := ⟨by decide, by decide⟩

theorem valid : Statement .valid := ⟨by decide, by decide⟩

theorem ser : Statement .ser := ⟨by decide, by decide⟩

theorem deser (x y z : Byte) : Statement (.deser x y z) :=
  ⟨cmdOp_or_lanes _ _ _ _, (cmdRsvd_or_lanes _ _ _ _).trans matchWord_rsvd⟩

theorem raw : Statement .raw := ⟨by decide, by decide⟩

theorem getpos : Statement .getpos := ⟨by decide, by decide⟩

theorem getvel : Statement .getvel := ⟨by decide, by decide⟩

end Sys2Proof.Laws.EncodeHeader
end

