-- ==== Sys2Proof/Laws/State.lean ====
section
/-! SUPPORT. One lemma per field per update of the state. -/

namespace Sys2Proof.Laws

open Sys2Proof.Machine

variable (s : State) (x : Snapshot) (d : Packed) (w : CmdWord) (ps : List PortIn)

@[simp] theorem answer_snap : (s.answer x d).snap = x := rfl
@[simp] theorem answer_inputs : (s.answer x d).inputs = s.inputs := rfl
@[simp] theorem answer_rsp : (s.answer x d).rsp = some ⟨.ok, d⟩ := rfl

@[simp] theorem answerRead_snap : (s.answerRead d).snap = s.snap := rfl
@[simp] theorem answerRead_inputs : (s.answerRead d).inputs = s.inputs := rfl
@[simp] theorem answerRead_rsp : (s.answerRead d).rsp = some ⟨.ok, d⟩ := rfl

@[simp] theorem answerWrite_snap : (s.answerWrite x).snap = x := rfl
@[simp] theorem answerWrite_inputs : (s.answerWrite x).inputs = s.inputs := rfl
@[simp] theorem answerWrite_rsp : (s.answerWrite x).rsp = some ⟨.ok, 0#24⟩ := rfl

@[simp] theorem answerIllegal_snap : s.answerIllegal.snap = s.snap := rfl
@[simp] theorem answerIllegal_inputs : s.answerIllegal.inputs = s.inputs := rfl
@[simp] theorem answerIllegal_rsp : s.answerIllegal.rsp = some ⟨.illegal, 0#24⟩ := rfl

@[simp] theorem resetCycle_snap : s.resetCycle.snap = ⟨0#8, 0#8, 0#8⟩ :=
  show Snapshot.ofPacked Config.resetSnap = _ by decide
@[simp] theorem resetCycle_inputs : s.resetCycle.inputs = s.inputs := rfl
@[simp] theorem resetCycle_rsp : s.resetCycle.rsp = none := rfl

@[simp] theorem idleCycle_snap : s.idleCycle.snap = s.snap := rfl
@[simp] theorem idleCycle_inputs : s.idleCycle.inputs = s.inputs := rfl
@[simp] theorem idleCycle_rsp : s.idleCycle.rsp = none := rfl

@[simp] theorem present_snap : (s.present w).snap = s.snap := rfl
@[simp] theorem present_inputs : (s.present w).inputs = PortIn.command w :: s.inputs := rfl
@[simp] theorem present_rsp : (s.present w).rsp = s.rsp := rfl

@[simp] theorem withInputs_snap : (s.withInputs ps).snap = s.snap := rfl
@[simp] theorem withInputs_inputs : (s.withInputs ps).inputs = ps := rfl
@[simp] theorem withInputs_rsp : (s.withInputs ps).rsp = s.rsp := rfl

@[simp] theorem powerUp_snap (n : Nat) : (State.powerUp n).snap = Snapshot.ofPacked (Config.powerUpSnap n) := rfl
@[simp] theorem powerUp_inputs (n : Nat) : (State.powerUp n).inputs = [] := rfl
@[simp] theorem powerUp_rsp (n : Nat) : (State.powerUp n).rsp = none := rfl

end Sys2Proof.Laws
end

