-- ==== Sys2Proof/Laws/Step.lean ====
section
/-! SUPPORT. What a command, a clock edge and a run can do, said once. -/

namespace Sys2Proof.Laws

open Sys2Proof.Machine

/-- All that a command can do: it reads, and answers some data, or it writes, and answers 0. -/
theorem exec_cases (i : Instr) (s : State) :
    (i.isWriter = false ∧ ∃ d, exec i s = .next (s.answerRead d)) ∨
    (i.isWriter = true ∧ ∃ x, exec i s = .next (s.answerWrite x)) := by
  cases i with
  | clr => exact .inr ⟨rfl, _, rfl⟩
  | setpos a b c => exact .inr ⟨rfl, _, rfl⟩
  | setvel v => exact .inr ⟨rfl, _, rfl⟩
  | csum => exact .inl ⟨rfl, _, rfl⟩
  | valid => exact .inl ⟨rfl, _, rfl⟩
  | ser => exact .inl ⟨rfl, _, rfl⟩
  | deser x y z => exact .inr ⟨rfl, _, rfl⟩
  | raw => exact .inl ⟨rfl, _, rfl⟩
  | getpos => exact .inl ⟨rfl, _, rfl⟩
  | getvel => exact .inl ⟨rfl, _, rfl⟩

/-- No command reads the samples to come or the last response: the register alone fixes what it leaves and answers. -/
theorem exec_same_register (i : Instr) (x : Snapshot) :
    ∃ y d, ∀ s : State, s.snap = x → exec i s = .next (s.answer y d) := by
  cases i with
  | clr => exact ⟨Snapshot.cleared, 0#24, fun _ _ => rfl⟩
  | setpos a b c => exact ⟨x.setpos a b c, 0#24, fun s h => h ▸ rfl⟩
  | setvel v => exact ⟨x.setvel v, 0#24, fun s h => h ▸ rfl⟩
  | csum => exact ⟨x, x.csum.setWidth 24, fun s h => h ▸ rfl⟩
  | valid => exact ⟨x, if x.isValid then 1#24 else 0#24, fun s h => h ▸ rfl⟩
  | ser => exact ⟨x, x.ser.asData, fun s h => h ▸ rfl⟩
  | deser b0 b1 b2 => exact ⟨⟨b0, b1, b2⟩, 0#24, fun _ _ => rfl⟩
  | raw => exact ⟨x, x.asData, fun s h => h ▸ rfl⟩
  | getpos =>
    exact ⟨x, data3 (x.xTile.setWidth 8) (x.xSub.setWidth 8) (x.yTile.setWidth 8), fun s h => h ▸ rfl⟩
  | getvel => exact ⟨x, (sext8 x.velEnc).setWidth 24, fun s h => h ▸ rfl⟩

/-- All that a clock edge can do: reset, a command's meaning, the answer to an illegal word, or nothing. -/
theorem clockEdge_cases (p : PortIn) (s : State) :
    (p.rst = true ∧ clockEdge p s = .next s.resetCycle) ∨
    (p.rst = false ∧ p.cmdValid = true ∧ ∃ i, decode p.cmd = .cmd i ∧ clockEdge p s = exec i s) ∨
    (p.rst = false ∧ p.cmdValid = true ∧ decode p.cmd = .illegal ∧ clockEdge p s = .next s.answerIllegal) ∨
    (p.rst = false ∧ p.cmdValid = false ∧ clockEdge p s = .next s.idleCycle) := by
  obtain ⟨rst, v, w⟩ := p
  cases rst with
  | true => exact .inl ⟨rfl, rfl⟩
  | false =>
    cases v with
    | false => exact .inr (.inr (.inr ⟨rfl, rfl, rfl⟩))
    | true =>
      show _ ∨ (_ ∧ _ ∧ ∃ i, decode w = .cmd i ∧ _) ∨ (_ ∧ _ ∧ decode w = .illegal ∧ _) ∨ _
      cases h : decode w with
      | cmd i => exact .inr (.inl ⟨rfl, rfl, i, rfl, by simp [clockEdge, h]⟩)
      | illegal => exact .inr (.inr (.inl ⟨rfl, rfl, rfl, by simp [clockEdge, h]⟩))

theorem step_of_nil {s : State} (h : s.inputs = []) : step s = .next s.idleCycle := by
  simp [step, sample_of_nil h, PortIn.idle, clockEdge]

theorem step_of_cons {s : State} {p : PortIn} {rest : List PortIn} (h : s.inputs = p :: rest) :
    step s = clockEdge p { s with inputs := rest } := by
  simp [step, sample_of_cons h]

theorem after_zero (s : State) : s.after 0 = .next s := rfl

/-- A run's first cycle, when it ends in a next state. -/
theorem after_succ_of_next {s t : State} (n : Nat) (h : step s = .next t) : s.after (n + 1) = t.after n := by
  have h' : Sys2Proof.core.step s = .next t := h
  simp only [State.after, Host.Core.run, h']
  rfl

/-- A run that continues a run. -/
theorem after_add_of_next {s t : State} (n m : Nat) (h : s.after n = .next t) : s.after (n + m) = t.after m := by
  induction n generalizing s with
  | zero =>
    cases h
    rw [Nat.zero_add]
  | succ n ih =>
    cases hs : step s with
    | next u =>
      rw [after_succ_of_next n hs] at h
      rw [Nat.succ_add, after_succ_of_next (n + m) hs]
      exact ih h
    | fault r => cases r
    | refused r =>
      have hs' : Sys2Proof.core.step s = .refused r := hs
      simp only [State.after, Host.Core.run, hs'] at h
      cases h

/-- What a clock edge does with a state does not depend on the samples still to come, and leaves them. -/
theorem clockEdge_withInputs (p : PortIn) (s : State) :
    ∃ t : State, ∀ qs, clockEdge p (s.withInputs qs) = .next (t.withInputs qs) := by
  rcases clockEdge_cases p s with ⟨hr, _⟩ | ⟨hr, hv, i, hd, _⟩ | ⟨hr, hv, hd, _⟩ | ⟨hr, hv, _⟩
  · exact ⟨s.resetCycle, fun _ => by simp [clockEdge, hr]; rfl⟩
  · obtain ⟨y, d, h⟩ := exec_same_register i s.snap
    exact ⟨s.answer y d, fun qs => by simp [clockEdge, hr, hv, hd, h (s.withInputs qs) rfl]; rfl⟩
  · exact ⟨s.answerIllegal, fun _ => by simp [clockEdge, hr, hv, hd]; rfl⟩
  · exact ⟨s.idleCycle, fun _ => by simp [clockEdge, hr, hv]; rfl⟩

/-- Feeding samples does not depend on the samples that follow them, and leaves those. -/
theorem after_samples (ps : List PortIn) (s : State) :
    ∃ t : State, ∀ qs, (s.withInputs (ps ++ qs)).after ps.length = .next (t.withInputs qs) := by
  induction ps generalizing s with
  | nil => exact ⟨s, fun _ => rfl⟩
  | cons p ps ih =>
    obtain ⟨t, ht⟩ := clockEdge_withInputs p s
    obtain ⟨u, hu⟩ := ih t
    refine ⟨u, fun qs => ?_⟩
    have hs : step (s.withInputs (p :: ps ++ qs)) = .next (t.withInputs (ps ++ qs)) := by
      rw [step_of_cons (p := p) (rest := ps ++ qs) rfl]
      exact ht (ps ++ qs)
    rw [List.length_cons, after_succ_of_next _ hs]
    exact hu qs

end Sys2Proof.Laws
end

