-- ==== Sys2Proof/Tests/Slice0.lean ====
section
/-! SUPPORT. Tests on fixed values and, for every statement with hypotheses, values that meet them. The expected
results of the tests are the worked examples and vectors V<n> of spec/95_test_vectors.md. -/

namespace Sys2Proof.Tests

open Sys2Proof.Machine

/-- The block with register value `p`, nothing to come and no response shown. -/
def stateOf (p : Packed) : State := ⟨Snapshot.ofPacked p, [], none⟩

/-- Register and response word after a step, if the step ends in a next state. -/
def shown : Host.Outcome State Fault Refusal → Option (Packed × Option RspWord)
  | .next t => some (t.snap.packed, t.rsp.map Response.word)
  | .fault _ => none
  | .refused _ => none

/-- One cycle from register value `p` in which the host presents `w`. -/
def oneStep (p : Packed) (w : CmdWord) : Option (Packed × Option RspWord) := shown (step ((stateOf p).present w))

/-! ## WellFormed refuses what cannot be encoded (30_encoding.md R72) -/

theorem test_wellFormed_setpos_x_tile : (Instr.setpos 256 0 0).wellFormed = false := by decide
theorem test_wellFormed_setpos_x_sub : (Instr.setpos 0 256 0).wellFormed = false := by decide
theorem test_wellFormed_setpos_y_tile : (Instr.setpos 0 0 256).wellFormed = false := by decide
theorem test_wellFormed_setvel_above : (Instr.setvel 128).wellFormed = false := by decide
theorem test_wellFormed_setvel_below : (Instr.setvel (-129)).wellFormed = false := by decide

/-! ## Decoding: a word written out from the spec's encoding, for every command -/

/-- V3. -/
theorem test_decode_clr : decode 0b0001_0000_00000000_00000000_00000000#32 = .cmd .clr := by decide
/-- V29. -/
theorem test_decode_setpos : decode 0b0010_0000_00001000_00000101_00001010#32 = .cmd (.setpos 10 5 8) := by decide
/-- V62. -/
theorem test_decode_setvel : decode 0b0011_0000_00000000_00000000_11111011#32 = .cmd (.setvel (-5)) := by decide
/-- V59. -/
theorem test_decode_setvel_max : decode 0b0011_0000_00000000_00000000_01111111#32 = .cmd (.setvel 127) := by decide
/-- V69. -/
theorem test_decode_setvel_min : decode 0b0011_0000_00000000_00000000_10000000#32 = .cmd (.setvel (-128)) := by decide
/-- V1, step 5. -/
theorem test_decode_csum : decode 0b0100_0000_00000000_00000000_00000000#32 = .cmd .csum := by decide
/-- P1, step 6. -/
theorem test_decode_valid : decode 0b0101_0000_00000000_00000000_00000000#32 = .cmd .valid := by decide
/-- V1, step 6. -/
theorem test_decode_ser : decode 0b0110_0000_00000000_00000000_00000000#32 = .cmd .ser := by decide
/-- V105: the first operand is byte0. -/
theorem test_decode_deser : decode 0b0111_0000_00001011_00100011_00001010#32 = .cmd (.deser 0x0A#8 0x23#8 0x0B#8) := by
  decide
/-- V1, step 4. -/
theorem test_decode_raw : decode 0b1000_0000_00000000_00000000_00000000#32 = .cmd .raw := by decide
/-- P1, step 11. -/
theorem test_decode_getpos : decode 0b1001_0000_00000000_00000000_00000000#32 = .cmd .getpos := by decide
/-- P1, step 12. -/
theorem test_decode_getvel : decode 0b1010_0000_00000000_00000000_00000000#32 = .cmd .getvel := by decide
/-- V162: `cmd[23:8]` ignored. -/
theorem test_decode_setvel_ignored : decode 0x3012FF03#32 = .cmd (.setvel 3) := by decide
/-- V150, V152, V156: opcodes outside the map. -/
theorem test_decode_no_opcode : decode 0x00000000#32 = .illegal ∧ decode 0xB0000000#32 = .illegal ∧
    decode 0xF0000000#32 = .illegal := by decide
/-- V157, V159: reserved field not 0. -/
theorem test_decode_rsvd : decode 0x11000000#32 = .illegal ∧ decode 0x78FFFFFF#32 = .illegal := by decide

/-- The host's question, on V29's word and on an illegal one. -/
theorem test_decodeTableWord : decodeTableWord 32 0x2008050A = some (.setpos 10 5 8) ∧
    decodeTableWord 32 0x2108050A = none := by decide

/-- V29 and V74 as the assembler writes them. -/
theorem test_assemble : assemble (.setpos 10 5 8) = some 0x2008050A#32 ∧
    assemble (.setvel (-5)) = some 0x300000FB#32 := by decide

/-! ## One step -/

/-- V161. -/
theorem test_clr : oneStep 0x8DA14A#24 0x10ABCDEF#32 = some (0x000000#24, some 0x00000000#32) := by decide
/-- V12: one above each maximum. -/
theorem test_setpos_clamps : oneStep 0x000000#24 0x20201040#32 = some (0x007FFF#24, some 0x00000000#32) := by decide
/-- V35: over other values, velocity and checksum slot kept. -/
theorem test_setpos_keeps : oneStep 0xA5C35A#24 0x20030907#32 = some (0xA58E47#24, some 0x00000000#32) := by decide
/-- V56: clamp before mask. -/
theorem test_setvel_clamps : oneStep 0x000000#24 0x30000010#32 = some (0x078000#24, some 0x00000000#32) := by decide
/-- V73: position and checksum slot kept. -/
theorem test_setvel_keeps : oneStep 0xFFFFFF#24 0x300000F0#32 = some (0xF87FFF#24, some 0x00000000#32) := by decide
/-- V96. -/
theorem test_csum : oneStep 0xA5C35A#24 0x40000000#32 = some (0xA5C35A#24, some 0x00000005#32) := by decide
/-- V81. -/
theorem test_valid_stale : oneStep 0x0DA14A#24 0x50000000#32 = some (0x0DA14A#24, some 0x00000000#32) := by decide
/-- V82. -/
theorem test_valid_fresh : oneStep 0x8DA14A#24 0x50000000#32 = some (0x8DA14A#24, some 0x00000001#32) := by decide
/-- V96. -/
theorem test_ser : oneStep 0xA5C35A#24 0x60000000#32 = some (0xA5C35A#24, some 0x0055C35A#32) := by decide
/-- V103. -/
theorem test_deser : oneStep 0x8DA14A#24 0x700DA14A#32 = some (0x0DA14A#24, some 0x00000000#32) := by decide
/-- V96. -/
theorem test_raw : oneStep 0xA5C35A#24 0x80000000#32 = some (0xA5C35A#24, some 0x00A5C35A#32) := by decide
/-- V96: both parts of x_sub, and byte1 bit 7 set. -/
theorem test_getpos : oneStep 0xA5C35A#24 0x90000000#32 = some (0xA5C35A#24, some 0x00100D1A#32) := by decide
/-- V93: the sign, and a checksum slot to be masked off. -/
theorem test_getvel : oneStep 0x880000#24 0xA0000000#32 = some (0x880000#24, some 0x000000F0#32) := by decide
/-- V158. -/
theorem test_illegal : oneStep 0x8DA14A#24 0x2108050A#32 = some (0x8DA14A#24, some 0x10000000#32) := by decide

/-- 70_reset_and_hazards.md R166: an idle cycle ignores the word on `cmd`. -/
theorem test_idle : shown (step { stateOf 0x8DA14A#24 with inputs := [⟨false, false, 0x10000000#32⟩] }) =
    some (0x8DA14A#24, none) := by decide
/-- 70_reset_and_hazards.md R160: reset wins over a DESER. -/
theorem test_reset_wins : shown (step { stateOf 0x8DA14A#24 with inputs := [⟨true, true, 0x70FFFFFF#32⟩] }) =
    some (0x000000#24, none) := by decide
/-- The word the host places is the one the next step executes. -/
theorem test_withFetchWord : shown (step (State.reset.withFetchWord 32 0x2008050A)) =
    some (0x00214A#24, some 0x00000000#32) := by decide

/-! ## Witnesses: values that meet the hypotheses of each statement, clause by clause, at the ends of their ranges -/

theorem witness_DecodeOfEncodeIsTheCommand : (Instr.setpos 255 0 255).wellFormed = true ∧
    (Instr.setvel (-128)).wellFormed = true ∧ (Instr.setvel 127).wellFormed = true := by decide

theorem witness_EncodeOfDecodeIsTheWord : decode 0x300000FB#32 = .cmd (.setvel (-5)) ∧
    0x300000FB#32 &&& (Instr.setvel (-5)).ignoredMask = 0#32 := by decide

theorem witness_IllegalWordsDoNothing : decode 0xB0000000#32 = .illegal ∧ decode 0x1F000000#32 = .illegal := by decide

theorem witness_IgnoredPayloadBitsHaveNoEffect : decode 0x300000FB#32 = .cmd (.setvel (-5)) ∧
    (0x300000FB#32 ^^^ 0x30FFFFFB#32) &&& ~~~(Instr.setvel (-5)).ignoredMask = 0#32 := by decide

/-- The last operands that are words and the first that are errors. -/
theorem witness_AssemblerWordsAsNumbers : (assemble (.setpos 255 255 255)).map BitVec.toNat = some 0x20FFFFFF ∧
    assemble (.setpos 256 0 0) = none ∧ assemble (.setpos 0 256 0) = none ∧ assemble (.setpos 0 0 256) = none ∧
    (assemble (.setvel (-128))).map BitVec.toNat = some 0x30000080 ∧
    (assemble (.setvel 127)).map BitVec.toNat = some 0x3000007F ∧ assemble (.setvel 128) = none ∧
    assemble (.setvel (-129)) = none := by decide

theorem witness_StepRunsTheDecodedCommand :
    (State.reset.present 0x60000000#32).inputs = PortIn.command 0x60000000#32 :: [] ∧
    decode 0x60000000#32 = .cmd .ser ∧ decode 0xFFFFFFFF#32 = .illegal := by decide

theorem witness_StepRunsTheDecodedCommand_no_command :
    (State.reset.withInputs [PortIn.idle]).inputs = ⟨false, false, 0#32⟩ :: [] ∧
    (State.reset.withInputs [PortIn.resetOnly]).inputs = ⟨true, false, 0#32⟩ :: [] ∧
    State.reset.inputs = [] := by decide

theorem witness_BlockRefinesThePackedMealyMachine :
    ((stateOf 0xA5C35A#24).present 0x2008050A#32).inputs = PortIn.command 0x2008050A#32 :: [] ∧
    ((stateOf 0xA5C35A#24).withInputs [PortIn.resetOnly]).inputs = PortIn.resetOnly :: [] ∧
    ((stateOf 0xA5C35A#24).withInputs [PortIn.idle]).inputs = PortIn.idle :: [] := by decide

theorem witness_ResponseWordLayout :
    (stateOf 0x8DA14A#24).snap = ((stateOf 0x8DA14A#24).present 0x60000000#32).snap ∧
    stateOf 0x8DA14A#24 ≠ (stateOf 0x8DA14A#24).present 0x60000000#32 := by decide

theorem witness_ResponseValidExactlyInCommandCycles :
    (State.reset.withInputs [PortIn.resetOnly]).inputs = PortIn.resetOnly :: [] ∧
    (State.reset.withInputs [PortIn.command 0#32]).inputs = PortIn.command 0#32 :: [] := by decide

theorem witness_ResetWinsOverACommand : decode 0x80000000#32 = .cmd .raw := by decide

theorem witness_OnlyWritersAndResetChangeTheRegister : ∃ t : State,
    ((stateOf 0x8DA14A#24).present 0x10000000#32).inputs = PortIn.command 0x10000000#32 :: [] ∧
    step ((stateOf 0x8DA14A#24).present 0x10000000#32) = .next t ∧
    t.snap ≠ ((stateOf 0x8DA14A#24).present 0x10000000#32).snap := ⟨_, rfl, rfl, by decide⟩

theorem witness_OnlyWritersAndResetChangeTheRegister_reset : ∃ t : State,
    ((stateOf 0x8DA14A#24).withInputs [PortIn.resetOnly]).inputs = PortIn.resetOnly :: [] ∧
    step ((stateOf 0x8DA14A#24).withInputs [PortIn.resetOnly]) = .next t ∧
    t.snap ≠ ((stateOf 0x8DA14A#24).withInputs [PortIn.resetOnly]).snap := ⟨_, rfl, rfl, by decide⟩

/-- The highest bit of each field, at its place. -/
theorem witness_FieldBitsStandWhereTheTableSays :
    (Snapshot.ofPacked 0x000020#24).xTile.getLsbD 5 = true ∧ (Snapshot.ofPacked 0x000200#24).xSub.getLsbD 3 = true ∧
    (Snapshot.ofPacked 0x004000#24).yTile.getLsbD 4 = true ∧ (Snapshot.ofPacked 0x080000#24).velEnc.getLsbD 4 = true ∧
    (Snapshot.ofPacked 0x800000#24).storedCsum.getLsbD 3 = true := by decide

/-- 00_scope.md R10, R11 at the bounds and one beyond them. -/
theorem witness_ClampsSaturate : clampU 63 63 = 63 ∧ clampU 64 63 = 63 ∧ clampS5 (-16) = -16 ∧ clampS5 (-17) = -16 ∧
    clampS5 15 = 15 ∧ clampS5 16 = 15 := by decide

theorem witness_VelocityPatternIsTwosComplement : enc5 (-16) = 16#5 ∧ enc5 15 = 15#5 ∧
    -16 ≤ (0xF0#8).toInt ∧ (0xF0#8).toInt ≤ 15 := by decide

theorem witness_ResetLeavesAValidZeroSnapshot : Instr.csum ∈ [Instr.raw, .ser, .getpos, .getvel, .csum] := by decide

theorem witness_ClrZeroesTheSnapshot : State.reset.snap = ⟨0x00#8, 0x00#8, 0x00#8⟩ := by decide

theorem witness_SetposPlacesTheClampedPosition : (stateOf 0xFFFFFF#24).snap = ⟨0xFF#8, 0xFF#8, 0xFF#8⟩ ∧
    (stateOf 0x000000#24).snap = ⟨0x00#8, 0x00#8, 0x00#8⟩ := by decide

theorem witness_SetvelPlacesTheClampedVelocity : (stateOf 0x00214A#24).snap = ⟨0x4A#8, 0x21#8, 0x00#8⟩ ∧
    (15 : Int) < 16 ∧ (-17 : Int) < -16 ∧ ∃ t, exec (.setvel (-1)) (stateOf 0x00214A#24) = .next t :=
  ⟨by decide, by decide, by decide, _, rfl⟩

theorem witness_SetvelClosedForm : ((0 : Int) ≤ 0 ∧ (15 : Int) ≤ 15) ∧ (-16 : Int) ≤ -16 ∧ (-1 : Int) < 0 := by decide

theorem witness_RangeViolationIsASilentClamp : 63 < 64 ∧ 15 < 16 ∧ 31 < 32 ∧ (15 : Int) < 16 ∧ (-17 : Int) < -16 := by
  decide

theorem witness_LastSetterOfEachKindWins :
    (∀ i ∈ [Instr.setpos 1 2 3, .setvel 4, .setpos 200 5 6], (i.isSetpos || i.isSetvel) = true) ∧
    lastPos [.setpos 1 2 3, .setvel 4, .setpos 200 5 6] = some (200, 5, 6) ∧
    lastVel [.setpos 1 2 3, .setvel 4, .setpos 200 5 6] = some 4 := by decide

theorem witness_CsumAnswersTheXorOfTheDataNibbles :
    (Snapshot.ofPacked 0x0DA14A#24).dataBits = (Snapshot.ofPacked 0x8DA14A#24).dataBits ∧
    (Snapshot.ofPacked 0x3FFFFF#24).dataBits = 0xFFFFF#20 ∧
    ((List.range 5).map (nib 0x0DA14A#24)).reverse.Perm ((List.range 5).map (nib 0x0DA14A#24)) :=
  ⟨by decide, by decide, List.reverse_perm _⟩

theorem witness_ChecksumIsColumnParityAndLinear : (Snapshot.ofPacked 0x088888#24).csum.getLsbD 3 = true := by decide

theorem witness_ErrorDetectionIsExact : (Snapshot.ofPacked 0x8DA14A#24).isValid = true ∧
    (Snapshot.ofPacked (0x8DA14A#24 ^^^ BitVec.twoPow 24 23)).isValid = false ∧
    (Snapshot.ofPacked (0x8DA14A#24 ^^^ BitVec.twoPow 24 0 ^^^ BitVec.twoPow 24 4)).isValid = true ∧
    (Snapshot.ofPacked (0x8DA14A#24 ^^^ BitVec.twoPow 24 0 ^^^ BitVec.twoPow 24 1)).isValid = false := by decide

theorem witness_StoredChecksumSteersNothing : (stateOf 0x0DA14A#24).snap.dataBits = (stateOf 0x8DA14A#24).snap.dataBits ∧
    Instr.ser ≠ .valid ∧ Instr.ser ≠ .raw ∧ Instr.ser.isWholeWrite = false := by decide

theorem witness_SettersLeaveTheChecksumStale :
    ∀ i ∈ [Instr.setpos 10 5 8, .setvel (-5)], (i.isSetpos || i.isSetvel) = true := by decide

theorem witness_SerAnswersTheBufferWithAFreshChecksum :
    (stateOf 0x0DA14A#24).snap.dataBits = (stateOf 0x8DA14A#24).snap.dataBits ∧
    (stateOf 0x8DA14A#24).snap.isValid = true ∧ (stateOf 0x000000#24).snap = ⟨0x00#8, 0x00#8, 0x00#8⟩ ∧
    (stateOf 0x0DA14A#24).snap = ⟨0x4A#8, 0xA1#8, 0x0D#8⟩ := by decide

theorem witness_DeserCopiesTheBufferVerbatim : ∃ t,
    exec (.deser 0x4A#8 0xA1#8 0x8D#8) State.reset = .next t ∧ State.reset.snap.storedCsum = 0#4 ∧
    t.snap.storedCsum ≠ 0#4 ∧ (Snapshot.mk 0x4A#8 0xA1#8 0x0D#8).isValid = false :=
  ⟨_, rfl, by decide, by decide, by decide⟩

theorem witness_RawAnswersTheRegisterVerbatim : (stateOf 0x0DA14A#24).snap = ⟨0x4A#8, 0xA1#8, 0x0D#8⟩ := by decide

theorem witness_WireCorruptionIsReportedByValid : 23 < 24 ∧ 3 < 24 ∧ 23 ≠ 3 ∧ 23 % 4 = 3 % 4 ∧ 0 ≠ 1 ∧
    ¬ 0 % 4 = 1 % 4 := by decide

theorem witness_GetposAnswersThePositionFields : (stateOf 0x00FF00#24).snap.b1 = 0xFF#8 ∧
    (stateOf 0x000000#24).snap = ⟨0x00#8, 0x00#8, 0x00#8⟩ ∧
    (stateOf 0x0DA14A#24).snap = ⟨0x4A#8, 0xA1#8, 0x0D#8⟩ := by decide

theorem witness_GetvelAnswersTheSignExtendedVelocity : (stateOf 0x080000#24).snap.velEnc = 16#5 ∧
    (stateOf 0x0F8000#24).snap.velEnc = 31#5 ∧ (stateOf 0x078000#24).snap.velEnc = 15#5 ∧
    (stateOf 0xF07FFF#24).snap.velEnc = 0#5 ∧ (stateOf 0xF00000#24).snap.b2 = 0xF0#8 ∧
    (stateOf 0xF00000#24).snap.b1 = 0x00#8 ∧ (stateOf 0x0DA14A#24).snap = ⟨0x4A#8, 0xA1#8, 0x0D#8⟩ := by decide

theorem witness_AccessorsReturnWhatIsStored : Instr.getvel ∈ [Instr.getpos, .getvel] ∧
    (stateOf 0x0DA14A#24).snap.dataBits = (stateOf 0x8DA14A#24).snap.dataBits := by decide

/-- Between setter and accessor: the other setter, an idle cycle, an illegal word and a reading command. -/
theorem witness_SetThenGetReturnsTheClampedOperands :
    (Instr.setpos 255 16 31).wellFormed = true ∧ (Instr.setvel (-128)).wellFormed = true ∧
    (∀ p ∈ [PortIn.command 0x300000FB#32, .idle, .command 0xFFFFFFFF#32, .command 0x60000000#32],
      p.keepsPosition = true) ∧
    (∀ p ∈ [PortIn.command 0x2008050A#32, .idle, .command 0xFFFFFFFF#32, .command 0x60000000#32],
      p.keepsVelocity = true) := by decide

theorem witness_ReadsArePureAndWritesIdempotent : Instr.ser.isWriter = false ∧
    (∀ j ∈ [Instr.raw, .csum, .valid, .getpos, .getvel], j.isWriter = false) ∧
    (Instr.setpos 1 2 3).isWriter = true := by decide

/-- Two registers that agree on every field but the checksum slot, one of them valid. -/
theorem witness_AccessMatrix : Instr.ser ∈ [Instr.csum, .ser] ∧
    (stateOf 0x0DA14A#24).snap.xTile = (stateOf 0x8DA14A#24).snap.xTile ∧
    (stateOf 0x0DA14A#24).snap.xSub = (stateOf 0x8DA14A#24).snap.xSub ∧
    (stateOf 0x0DA14A#24).snap.yTile = (stateOf 0x8DA14A#24).snap.yTile ∧
    (stateOf 0x0DA14A#24).snap.velEnc = (stateOf 0x8DA14A#24).snap.velEnc ∧
    (stateOf 0x0DA14A#24).snap ≠ (stateOf 0x8DA14A#24).snap := by decide

/-- Two states that agree on all five fields and are not the same, and an illegal word. -/
theorem witness_AccessMatrix_five_fields : Instr.raw ∈ [Instr.valid, .raw] ∧
    (stateOf 0x0DA14A#24).snap = ((stateOf 0x0DA14A#24).present 0#32).snap ∧
    stateOf 0x0DA14A#24 ≠ (stateOf 0x0DA14A#24).present 0#32 ∧ decode 0xB0000000#32 = .illegal := by decide

theorem witness_StepKeepsTheSlotZeroWithoutDeser :
    ((stateOf 0x00214A#24).withInputs [PortIn.command 0x300000FB#32, .resetOnly]).slotStaysZero ∧
    ∃ t, step ((stateOf 0x00214A#24).withInputs [PortIn.command 0x300000FB#32, .resetOnly]) = .next t :=
  ⟨⟨by decide, by decide⟩, _, rfl⟩

theorem witness_StepKeepsValidityWithoutSetters :
    ((stateOf 0x8DA14A#24).withInputs [PortIn.command 0x700B230A#32, .command 0x60000000#32]).staysValid ∧
    ∃ t, step ((stateOf 0x8DA14A#24).withInputs [PortIn.command 0x700B230A#32, .command 0x60000000#32]) = .next t :=
  ⟨⟨by decide, by decide⟩, _, rfl⟩

theorem witness_StepKeepsIllegalResponsesEmpty :
    State.rspLegal { (stateOf 0x8DA14A#24).present 0xFFFFFFFF#32 with rsp := some ⟨.illegal, 0#24⟩ } ∧
    ∃ t, step { (stateOf 0x8DA14A#24).present 0xFFFFFFFF#32 with rsp := some ⟨.illegal, 0#24⟩ } = .next t :=
  ⟨fun _ h _ => by cases h; rfl, _, rfl⟩

end Sys2Proof.Tests
end

section
/-! PROOFS. The statements of 00_scope.md: the two saturating casts and the 5-bit two's-complement pattern. -/

namespace Sys2Proof.Laws

open Sys2Proof.Machine

/-! ## The saturating casts -/

theorem clampU_of_not_le {v max : Nat} (h : ¬ v ≤ max) : clampU v max = max := if_neg h

theorem clampU_eq_min (v max : Nat) : clampU v max = min v max := by
  by_cases h : v ≤ max
  · rw [clampU_of_le h, Nat.min_eq_left h]
  · rw [clampU_of_not_le h, Nat.min_eq_right (Nat.le_of_not_le h)]

theorem clampPos_eq_min (a b c : Nat) : clampPos a b c = (min a 63, min b 15, min c 31) := by
  simp only [clampPos, clampU_eq_min]

theorem clampS5_of_lt {v : Int} (h : v < -16) : clampS5 v = -16 := if_pos h

theorem clampS5_of_gt {v : Int} (h : v > 15) : clampS5 v = 15 := by
  rw [clampS5, if_neg (show ¬ v < -16 by omega), if_pos h]

/-- The three branches of the signed cast are one closed form (00_scope.md R11). -/
theorem clampS5_eq_max_min (v : Int) : clampS5 v = max (-16) (min 15 v) := by
  rcases lt_trichotomy v (-16) with below | rfl | above
  · rw [clampS5_of_lt below]; omega
  · rfl
  · rcases le_or_gt v 15 with inside | beyond
    · rw [clampS5_of_range above.le inside]; omega
    · rw [clampS5_of_gt beyond]; omega

/-! ## The 5-bit pattern -/

/-- In range, the pattern is the library's two's complement at width 5, on which its width and sign laws act. -/
theorem enc5_eq_ofInt {w : Int} (h : -16 ≤ w) (h' : w ≤ 15) : enc5 w = BitVec.ofInt 5 w := by
  have pattern := enc5_toNat h h'
  apply BitVec.eq_of_toNat_eq
  rw [BitVec.toNat_ofInt]
  omega

/-- The pattern as R12 gives it: the integer, or 32 more than a negative one. -/
theorem enc5_toNat_eq_ite {w : Int} (h : -16 ≤ w) (h' : w ≤ 15) :
    ((enc5 w).toNat : Int) = if 0 ≤ w then w else w + 32 := by
  rw [enc5_toNat h h']
  split <;> omega

theorem dec5_range (e : BitVec 5) : -16 ≤ dec5 e ∧ dec5 e ≤ 15 := by
  rw [dec5_eq_toInt]
  exact ⟨e.le_toInt, e.toInt_le⟩

theorem dec5_enc5 {w : Int} (h : -16 ≤ w) (h' : w ≤ 15) : dec5 (enc5 w) = w := by
  rw [enc5_eq_ofInt h h', dec5_eq_toInt]
  exact BitVec.toInt_ofInt_eq_self (by decide) h (by omega)

theorem enc5_dec5 (e : BitVec 5) : enc5 (dec5 e) = e := by
  obtain ⟨low, high⟩ := dec5_range e
  rw [enc5_eq_ofInt low high, dec5_eq_toInt, BitVec.ofInt_toInt]

/-- Narrowing two's complement: the residue modulo `2 ^ n` fixes the residue modulo `2 ^ m`, which divides it. -/
theorem setWidth_ofInt_of_le {m n : Nat} (h : m ≤ n) (w : Int) :
    (BitVec.ofInt n w).setWidth m = BitVec.ofInt m w := by
  have divides : ((2 ^ m : Nat) : Int) ∣ (2 ^ n : Nat) := Int.natCast_dvd_natCast.mpr (Nat.pow_dvd_pow 2 h)
  have nonneg : 0 ≤ w % (2 ^ n : Nat) := Int.emod_nonneg w (by simp)
  apply BitVec.eq_of_toNat_eq
  calc ((BitVec.ofInt n w).setWidth m).toNat
      = (w % (2 ^ n : Nat)).toNat % 2 ^ m := by rw [BitVec.toNat_setWidth, BitVec.toNat_ofInt]
    _ = (w % (2 ^ n : Nat) % (2 ^ m : Nat)).toNat := by
        rw [Int.toNat_emod nonneg (Int.natCast_nonneg _), Int.toNat_natCast]
    _ = (BitVec.ofInt m w).toNat := by rw [Int.emod_emod_of_dvd w divides, BitVec.toNat_ofInt]

/-- Widening the low five bits of a byte is masking it. -/
theorem low5_setWidth_eq_and (u : Byte) : (u.setWidth 5).setWidth 8 = u &&& 0x1F#8 := by
  calc (u.setWidth 5).setWidth 8 = 0#3 ++ u.setWidth 5 := BitVec.setWidth_eq_append (by decide)
    _ = u &&& (BitVec.allOnes 5).setWidth 8 := (BitVec.and_setWidth_allOnes 3 5 u).symm

/-- The pattern of the velocity in a byte is the low five bits of the byte (00_scope.md R12). -/
theorem enc5_byte {u : Byte} (h : -16 ≤ u.toInt) (h' : u.toInt ≤ 15) :
    (enc5 u.toInt).setWidth 8 = u &&& 0x1F#8 := by
  have low5 : enc5 u.toInt = u.setWidth 5 := by
    rw [enc5_eq_ofInt h h', ← setWidth_ofInt_of_le (show 5 ≤ 8 by decide), BitVec.ofInt_toInt]
  rw [low5, low5_setWidth_eq_and]

/-! ## The statements -/

/-- Settles O21: the pattern is the library's two's complement at width 5, in each direction. -/
theorem velocityPatternIsTwosComplement : Obligations.VelocityPatternIsTwosComplement := by
  refine ⟨fun w h h' => ⟨enc5_toNat_eq_ite h h', dec5_enc5 h h', fun n hn => ?_⟩, fun u => enc5_byte,
    fun e => ?_, by decide⟩
  · rw [setWidth_ofInt_of_le hn, enc5_eq_ofInt h h']
  · obtain ⟨low, high⟩ := dec5_range e
    exact ⟨rfl, low, high, enc5_dec5 e⟩

/-- Settles O20, from one equation per branch of each cast and its closed form. -/
theorem clampsSaturate : Obligations.ClampsSaturate :=
  ⟨fun v max => ⟨clampU_eq_min v max, clampU_of_le, clampU_of_not_le⟩, clampPos_eq_min, by decide,
    fun v => ⟨clampS5_eq_max_min v, clampS5_of_lt, clampS5_of_gt, clampS5_of_range⟩⟩

end Sys2Proof.Laws
end

section
/-! PROOFS. The statements of 10_state.md: where every bit of every field stands. -/

namespace Sys2Proof.Laws

open Sys2Proof.Machine

/-! ## The bits of the fields

One lemma for each row of the field table (10_state.md R23), two where a field crosses a byte boundary: there the bits
of the one byte meet the zeros shifted in beside the other's. -/

section Fields

variable (s : Snapshot) {k : Nat}

theorem getLsbD_xTile (h : k < 6) : s.xTile.getLsbD k = s.b0.getLsbD k := by
  have mask : ∀ i < 6, (0x3F#8).getLsbD i = true := by decide
  simp [Snapshot.xTile, -BitVec.setWidth_and, mask k h, h]

/-- Byte1's part of x_sub starts above its low two bits. -/
theorem getLsbD_xSub_low (h : k < 2) : s.xSub.getLsbD k = s.b0.getLsbD (k + 6) := by
  have width : k < 4 := by omega
  simp [Snapshot.xSub, h, width, Nat.add_comm]

/-- Byte0's part of x_sub ends below its high two bits. -/
theorem getLsbD_xSub_high (h : k < 2) : s.xSub.getLsbD (k + 2) = s.b1.getLsbD k := by
  have mask : ∀ i < 2, (0x03#8).getLsbD i = true := by decide
  have byte0_ends : s.b0.getLsbD (6 + (k + 2)) = false := BitVec.getLsbD_of_ge _ _ (by omega)
  have width : k + 2 < 4 := by omega
  have byte : k + 2 < 8 := by omega
  simp [Snapshot.xSub, -BitVec.setWidth_or, -BitVec.setWidth_and, -BitVec.getLsbD_eq_getElem, mask k h,
    byte0_ends, width, byte]

theorem getLsbD_yTile (h : k < 5) : s.yTile.getLsbD k = s.b1.getLsbD (k + 2) := by
  have mask : ∀ i < 5, (0x1F#8).getLsbD i = true := by decide
  simp [Snapshot.yTile, -BitVec.setWidth_and, mask k h, h, Nat.add_comm]

/-- Byte2's part of the velocity pattern starts above its lowest bit. -/
theorem getLsbD_velEnc_zero : s.velEnc.getLsbD 0 = s.b1.getLsbD 7 := by
  simp [Snapshot.velEnc]

/-- Byte1's part of the velocity pattern is its lowest bit alone. -/
theorem getLsbD_velEnc_succ (h : k < 4) : s.velEnc.getLsbD (k + 1) = s.b2.getLsbD k := by
  have mask : ∀ i < 4, (0x0F#8).getLsbD i = true := by decide
  have byte1_ends : s.b1.getLsbD (7 + (k + 1)) = false := BitVec.getLsbD_of_ge _ _ (by omega)
  have width : k + 1 < 5 := by omega
  have byte : k + 1 < 8 := by omega
  simp [Snapshot.velEnc, -BitVec.setWidth_or, -BitVec.setWidth_and, -BitVec.getLsbD_eq_getElem, mask k h,
    byte1_ends, width, byte]

theorem getLsbD_storedCsum (h : k < 4) : s.storedCsum.getLsbD k = s.b2.getLsbD (k + 4) := by
  simp [Snapshot.storedCsum, h, Nat.add_comm]

/-! ## The velocity's reading -/

theorem vel_eq_toInt : s.vel = s.velEnc.toInt := dec5_eq_toInt _

theorem vel_range : -16 ≤ s.vel ∧ s.vel ≤ 15 := dec5_range _

end Fields

/-! ## The statements -/

/-- Settles O18, one row of the field table after another. -/
theorem fieldBitsStandWhereTheTableSays : Obligations.FieldBitsStandWhereTheTableSays := by
  intro s
  refine ⟨fun k => getLsbD_xTile s, fun k h => ⟨getLsbD_xSub_low s h, getLsbD_xSub_high s h⟩,
    fun k => getLsbD_yTile s, getLsbD_velEnc_zero s, fun k positive below => ?_, fun k => getLsbD_storedCsum s,
    vel_eq_toInt s, vel_range s⟩
  obtain ⟨j, rfl⟩ := Nat.exists_eq_add_of_le' positive
  exact getLsbD_velEnc_succ s (by omega)

end Sys2Proof.Laws
end

section
/-! PROOFS. The statement of 20_memory.md: what reading again and writing again leave. -/

namespace Sys2Proof.Laws

open Sys2Proof.Machine

/-! ## Placing again

Whether or not the value keeps to its mask: a bit of it outside the mask is set both times. -/

theorem placeBits_same_twice (old m v : Byte) : placeBits (placeBits old m v) m v = placeBits old m v := by
  apply BitVec.eq_of_getElem_eq
  intro k hk
  cases hm : m[k] <;> simp [hm]

/-- A field placed under `m` and then one under `n`, and both again: of the first field only the bits outside `n`
outlast the second. -/
theorem placeBits_pair_twice (old m n v w : Byte) :
    placeBits (placeBits (placeBits (placeBits old m v) n w) m v) n w = placeBits (placeBits old m v) n w := by
  apply BitVec.eq_of_getElem_eq
  intro k hk
  cases hn : n[k] with
  | true => simp [hn]
  | false => cases hm : m[k] <;> cases hv : v[k] <;> simp [hn, hm, hv]

theorem setpos_same_twice (x : Snapshot) (a b c : Nat) : (x.setpos a b c).setpos a b c = x.setpos a b c :=
  Snapshot.ext (placeBits_pair_twice ..) (placeBits_pair_twice ..) rfl

theorem setvel_same_twice (x : Snapshot) (v : Int) : (x.setvel v).setvel v = x.setvel v :=
  Snapshot.ext rfl (placeBits_same_twice ..) (placeBits_same_twice ..)

/-! ## Commands again -/

/-- The last response steers no command: one that finds the same register and the same samples to come does the same. -/
theorem exec_congr (i : Instr) {s t : State} (same_snap : t.snap = s.snap) (same_inputs : t.inputs = s.inputs) :
    exec i t = exec i s := by
  obtain ⟨y, d, fixed⟩ := exec_same_register i s.snap
  rw [fixed t same_snap, fixed s rfl, State.answer, State.answer, same_inputs]

theorem exec_reader {i : Instr} (reads : i.isWriter = false) (s : State) :
    ∃ d, exec i s = .next (s.answerRead d) := by
  rcases exec_cases i s with ⟨_, answered⟩ | ⟨writes, _⟩
  · exact answered
  · simp [reads] at writes

/-- A writing command leaves a state in which it changes nothing (20_memory.md R45). -/
theorem exec_writer_fixed {i : Instr} (writes : i.isWriter = true) (s : State) :
    ∃ t, exec i s = .next t ∧ exec i t = .next t := by
  cases i with
  | clr => exact ⟨_, rfl, rfl⟩
  | setpos a b c =>
    exact ⟨_, rfl, congrArg (fun x => Host.Outcome.next (s.answerWrite x)) (setpos_same_twice s.snap a b c)⟩
  | setvel v =>
    exact ⟨_, rfl, congrArg (fun x => Host.Outcome.next (s.answerWrite x)) (setvel_same_twice s.snap v)⟩
  | deser b0 b1 b2 => exact ⟨_, rfl, rfl⟩
  | csum | valid | ser | raw | getpos | getvel => exact absurd writes (by decide)

/-! ## Lists of commands -/

theorem execAll_nil (s : State) : execAll [] s = .next s := rfl

theorem execAll_cons_of_next {i : Instr} {s t : State} (is : List Instr) (h : exec i s = .next t) :
    execAll (i :: is) s = execAll is t := by
  simp [execAll, h]

theorem execAll_singleton_of_next {i : Instr} {s t : State} (h : exec i s = .next t) :
    execAll [i] s = .next t := by
  rw [execAll_cons_of_next [] h, execAll_nil]

/-- After reading commands, a command finds all it depends on as it was before them. -/
theorem execAll_readers_append_of_next {js : List Instr} (readers : ∀ j ∈ js, j.isWriter = false) {i : Instr}
    {s t : State} (h : exec i s = .next t) : execAll (js ++ [i]) s = .next t := by
  induction js generalizing s with
  | nil => exact execAll_singleton_of_next h
  | cons j js ih =>
    obtain ⟨reads, rest_read⟩ := List.forall_mem_cons.mp readers
    obtain ⟨d, answered⟩ := exec_reader reads s
    have unmoved : exec i (s.answerRead d) = .next t :=
      (exec_congr i (answerRead_snap s d) (answerRead_inputs s d)).trans h
    calc execAll (j :: (js ++ [i])) s
        = execAll (js ++ [i]) (s.answerRead d) := execAll_cons_of_next _ answered
      _ = .next t := ih rest_read unmoved

/-! ## The statement -/

/-- Settles O50: readers move only the last response, on which no command depends; a writer's result is fixed by it. -/
theorem readsArePureAndWritesIdempotent : Obligations.ReadsArePureAndWritesIdempotent := by
  refine ⟨fun i js s reads readers => ?_, fun i s writes => ?_⟩
  · obtain ⟨d, answered⟩ := exec_reader reads s
    exact ⟨s.answerRead d, answered, rfl, execAll_readers_append_of_next readers answered⟩
  · obtain ⟨t, once, again⟩ := exec_writer_fixed writes s
    refine ⟨t, execAll_singleton_of_next once, ?_⟩
    rw [execAll_cons_of_next [i] once, execAll_singleton_of_next again]

end Sys2Proof.Laws
end

section
/-! PROOFS. The statements of 30_encoding.md on illegal words and on ignored payload bits. -/

namespace Sys2Proof.Laws

open Sys2Proof.Machine

/-! ## The fields of a command word

Opcode, reserved field and payload are the whole word, and each can be chosen freely (30_encoding.md R61). -/

theorem word_eq_fields (w : CmdWord) : cmdOp w ++ cmdRsvd w ++ cmdPayload w = w := by
  calc cmdOp w ++ cmdRsvd w ++ cmdPayload w
      = w.extractLsb' 24 8 ++ w.extractLsb' 0 24 :=
        congrArg (· ++ cmdPayload w) (BitVec.extractLsb'_append_extractLsb'_eq_extractLsb' rfl)
    _ = w.extractLsb' 0 32 := BitVec.extractLsb'_append_extractLsb'_eq_extractLsb' rfl
    _ = w := BitVec.extractLsb'_eq_self

section Fields

variable (op rsvd : BitVec 4) (p : Packed)

@[simp] theorem cmdOp_fields : cmdOp (op ++ rsvd ++ p) = op := by
  calc cmdOp (op ++ rsvd ++ p)
      = (op ++ rsvd).extractLsb' 4 4 := BitVec.extractLsb'_append_eq_of_le (by decide)
    _ = op := BitVec.extractLsb'_append_eq_left

@[simp] theorem cmdRsvd_fields : cmdRsvd (op ++ rsvd ++ p) = rsvd := by
  calc cmdRsvd (op ++ rsvd ++ p)
      = (op ++ rsvd).extractLsb' 0 4 := BitVec.extractLsb'_append_eq_of_le (by decide)
    _ = rsvd := BitVec.extractLsb'_append_eq_right

@[simp] theorem cmdPayload_fields : cmdPayload (op ++ rsvd ++ p) = p := BitVec.extractLsb'_append_eq_right

end Fields

/-! ## Which words are legal -/

/-- The opcodes of the ten commands (30_encoding.md R63). -/
def LegalOp (op : BitVec 4) : Prop := 0x1 ≤ op.toNat ∧ op.toNat ≤ 0xA

theorem decodeOp_eq_illegal_iff (op : Nat) (w : CmdWord) : decodeOp op w = .illegal ↔ op = 0x0 ∨ 0xB ≤ op := by
  unfold decodeOp
  split
  case h_11 => simp only [true_iff]; grind
  all_goals simp

theorem decode_eq_illegal_iff (w : CmdWord) :
    decode w = .illegal ↔ ¬ LegalOp (cmdOp w) ∨ cmdRsvd w ≠ 0#4 := by
  by_cases rsvd : cmdRsvd w = 0#4
  · rw [decode_of_rsvd_zero rsvd, decodeOp_eq_illegal_iff, LegalOp]
    simp only [rsvd, ne_eq, not_true_eq_false, or_false]
    omega
  · simp [decode_of_rsvd_ne rsvd, rsvd]

theorem decode_ne_illegal_iff (w : CmdWord) :
    decode w ≠ .illegal ↔ LegalOp (cmdOp w) ∧ cmdRsvd w = 0#4 := by
  rw [Ne, decode_eq_illegal_iff, not_or, not_not, not_not]

/-- A legal word is a legal opcode and any payload. -/
def legalWordEquiv : { w : CmdWord // decode w ≠ .illegal } ≃ { op : BitVec 4 // LegalOp op } × Packed where
  toFun w := (⟨cmdOp w.1, ((decode_ne_illegal_iff w.1).mp w.2).1⟩, cmdPayload w.1)
  invFun f := ⟨f.1.1 ++ 0#4 ++ f.2, (decode_ne_illegal_iff _).mpr (by simp [f.1.2])⟩
  left_inv w := by
    obtain ⟨w, legal⟩ := w
    obtain ⟨-, rsvd⟩ := (decode_ne_illegal_iff w).mp legal
    have fields := word_eq_fields w
    rw [rsvd] at fields
    exact Subtype.ext fields
  right_inv f := by simp

theorem card_legalOp : Nat.card { op : BitVec 4 // LegalOp op } = 10 := by
  unfold LegalOp
  rw [Nat.card_eq_fintype_card]
  decide

theorem card_packed : Nat.card Packed = 2 ^ 24 := by
  rw [Nat.card_congr BitVec.equivFin.toEquiv, Nat.card_fin]

theorem card_legal_words : Nat.card { w : CmdWord // decode w ≠ .illegal } = 10 * 2 ^ 24 := by
  rw [Nat.card_congr legalWordEquiv, Nat.card_prod, card_legalOp, card_packed]

/-! ## The step of a presented word -/

theorem step_present (s : State) (w : CmdWord) : step (s.present w) = clockEdge (PortIn.command w) s :=
  step_of_cons (present_inputs s w)

theorem step_present_of_cmd {w : CmdWord} {i : Instr} (h : decode w = .cmd i) (s : State) :
    step (s.present w) = exec i s := by
  simp [step_present, clockEdge, PortIn.command, h]

theorem step_present_of_illegal {w : CmdWord} (h : decode w = .illegal) (s : State) :
    step (s.present w) = .next s.answerIllegal := by
  simp [step_present, clockEdge, PortIn.command, h]

/-- A presented word steps alike from two states that hold the same register and the same samples to come. -/
theorem step_present_congr {s t : State} (same_snap : t.snap = s.snap) (same_inputs : t.inputs = s.inputs)
    (w : CmdWord) : step (t.present w) = step (s.present w) := by
  cases h : decode w with
  | cmd i => rw [step_present_of_cmd h, step_present_of_cmd h, exec_congr i same_snap same_inputs]
  | illegal =>
    rw [step_present_of_illegal h, step_present_of_illegal h, State.answerIllegal, State.answerIllegal,
      same_snap, same_inputs]

/-- Runs from two states whose first cycle is the same are the same. -/
theorem after_succ_congr {s t : State} (n : Nat) (h : step s = step t) : s.after (n + 1) = t.after (n + 1) := by
  have h' : Sys2Proof.core.step s = Sys2Proof.core.step t := h
  simp only [State.after, Host.Core.run, h']
  rfl

/-- Nothing is latched: of an illegal word only its response is left, which no later command reads. -/
theorem after_illegal_then {w : CmdWord} (illegal : decode w = .illegal) (s : State) (v : CmdWord) :
    ((s.present v).present w).after 2 = (s.present v).after 1 := by
  calc ((s.present v).present w).after 2
      = (s.present v).answerIllegal.after 1 := after_succ_of_next 1 (step_present_of_illegal illegal _)
    _ = (s.present v).after 1 :=
        after_succ_congr 0 (step_present_congr (answerIllegal_snap s) (answerIllegal_inputs s) v)

/-! ## Ignored bits -/

/-- A field that no bit of `m` touches is the same in two words that differ only under `m`. -/
theorem extractLsb'_eq_of_differ_under {n : Nat} {w v m : BitVec n} (differ : (w ^^^ v) &&& ~~~m = 0#n)
    {start len : Nat} (untouched : m.extractLsb' start len = 0#len) :
    v.extractLsb' start len = w.extractLsb' start len := by
  have under : w ^^^ v = (w ^^^ v) &&& m := by
    calc w ^^^ v
        = (w ^^^ v) &&& (m ||| ~~~m) := by rw [BitVec.or_not_self, BitVec.and_allOnes]
      _ = (w ^^^ v) &&& m := by rw [BitVec.and_or_distrib_left, differ, BitVec.or_zero]
  refine (BitVec.xor_eq_zero_iff.mp ?_).symm
  rw [← BitVec.extractLsb'_xor, under, BitVec.extractLsb'_and, untouched, BitVec.and_zero]

/-- No command ignores a bit of the opcode or of the reserved field (30_encoding.md R63, R65). -/
theorem ignoredMask_header (i : Instr) : cmdOp i.ignoredMask = 0#4 ∧ cmdRsvd i.ignoredMask = 0#4 := by
  cases i <;> simp [cmdOp, cmdRsvd, Instr.ignoredMask]

/-- SETVEL's operand lane is not ignored (30_encoding.md R65). -/
theorem setvel_ignoredMask_p0 (v : Int) : cmdP0 (Instr.setvel v).ignoredMask = 0#8 :=
  show cmdP0 0x00FFFF00#32 = 0#8 by decide

theorem eq_of_differ_under_nothing {n : Nat} {w v : BitVec n} (differ : (w ^^^ v) &&& ~~~0#n = 0#n) : v = w := by
  rw [BitVec.not_zero, BitVec.and_allOnes, BitVec.xor_eq_zero_iff] at differ
  exact differ.symm

/-- What a command takes from the payload: every bit (SETPOS and DESER), the low lane (SETVEL), or nothing
(30_encoding.md R65). -/
theorem decodeOp_cases {op : Nat} {w : CmdWord} {i : Instr} (h : decodeOp op w = .cmd i) :
    i.ignoredMask = 0#32 ∨ (op = 0x3 ∧ i = .setvel (sval8 (cmdP0 w))) ∨ (∀ v, decodeOp op v = .cmd i) := by
  unfold decodeOp at h
  split at h
  case h_2 => cases h; exact .inl rfl
  case h_3 => cases h; exact .inr (.inl ⟨rfl, rfl⟩)
  case h_7 => cases h; exact .inl rfl
  case h_11 => cases h
  all_goals exact .inr (.inr fun _ => h)

/-- An opcode's command takes its operands from bits that it does not ignore. -/
theorem decodeOp_of_differ_ignored {op : Nat} {w v : CmdWord} {i : Instr} (h : decodeOp op w = .cmd i)
    (differ : (w ^^^ v) &&& ~~~i.ignoredMask = 0#32) : decodeOp op v = .cmd i := by
  rcases decodeOp_cases h with every_bit | ⟨rfl, rfl⟩ | nothing
  · rw [every_bit] at differ
    rw [eq_of_differ_under_nothing differ]
    exact h
  · have p0 : cmdP0 v = cmdP0 w := extractLsb'_eq_of_differ_under differ (setvel_ignoredMask_p0 _)
    rw [← p0]
    rfl
  · exact nothing v

theorem decode_of_differ_ignored {w v : CmdWord} {i : Instr} (h : decode w = .cmd i)
    (differ : (w ^^^ v) &&& ~~~i.ignoredMask = 0#32) : decode v = .cmd i := by
  obtain ⟨op_used, rsvd_used⟩ := ignoredMask_header i
  have op : cmdOp v = cmdOp w := extractLsb'_eq_of_differ_under differ op_used
  have rsvd : cmdRsvd v = cmdRsvd w := extractLsb'_eq_of_differ_under differ rsvd_used
  by_cases zero : cmdRsvd w = 0#4
  · rw [decode_of_rsvd_zero zero] at h
    rw [decode_of_rsvd_zero (rsvd.trans zero), op]
    exact decodeOp_of_differ_ignored h differ
  · rw [decode_of_rsvd_ne zero] at h
    cases h

/-- The low byte is the one lane that SETVEL's mask leaves out. -/
theorem low_lane_and_high_mask (a : Byte) : lanes a 0#8 0#8 &&& 0x00FFFF00#32 = 0#32 := by
  apply BitVec.eq_of_getLsbD_eq
  intro k hk
  rw [BitVec.getLsbD_and, getLsbD_lanes _ _ _ _ hk]
  by_cases low : k < 8
  · have clear : ∀ k < 8, (0x00FFFF00#32).getLsbD k = false := by decide
    rw [clear k low, Bool.and_false, BitVec.getLsbD_zero]
  · simp [low]

/-- The encoder writes 0 in every ignored bit (30_encoding.md R69). -/
theorem encode_and_ignoredMask (i : Instr) : encode i &&& i.ignoredMask = 0#32 := by
  cases i with
  | setpos a b c => exact BitVec.and_zero
  | deser a b c => exact BitVec.and_zero
  | setvel v =>
    calc (0x30000000#32 ||| lanes (BitVec.ofInt 8 v) 0#8 0#8) &&& 0x00FFFF00#32
        = (0x30000000#32 &&& 0x00FFFF00#32) ||| (lanes (BitVec.ofInt 8 v) 0#8 0#8 &&& 0x00FFFF00#32) :=
          BitVec.and_or_distrib_right
      _ = 0#32 := by rw [low_lane_and_high_mask]; rfl
  | clr | csum | valid | ser | raw | getpos | getvel => decide

/-! ## The statements -/

/-- Settles O4: legality by the opcode and the reserved field, the one answer, and the count by the free fields. -/
theorem illegalWordsDoNothing : Obligations.IllegalWordsDoNothing := by
  refine ⟨fun w => ?_, fun s w illegal => step_present_of_illegal illegal s,
    fun s w v illegal => after_illegal_then illegal s v, by decide, by decide, card_legal_words⟩
  have width : (cmdOp w).toNat < 2 ^ 4 := (cmdOp w).isLt
  rw [decode_eq_illegal_iff, LegalOp, ← or_assoc]
  exact or_congr_left (by omega)

/-- Settles O5: words that differ in ignored bits decode to one command, and the step runs the decoded command. -/
theorem ignoredPayloadBitsHaveNoEffect : Obligations.IgnoredPayloadBitsHaveNoEffect := by
  refine ⟨fun w v i h differ => ?_, encode_and_ignoredMask, by decide⟩
  have same := decode_of_differ_ignored h differ
  exact ⟨same, fun s => by rw [step_present_of_cmd same, step_present_of_cmd h]⟩

end Sys2Proof.Laws
end

section
/-! PROOFS. What a word written lane by lane decodes to, and that the encoder writes it so: CLR, SETPOS, SETVEL. -/

namespace Sys2Proof.Laws

open Sys2Proof.Machine

/-! ## The lanes of a word

A word of opcode, zeros and payload decodes by its opcode; its payload lanes are the bytes it is written with
(30_encoding.md R61). -/

theorem decode_fields (op : BitVec 4) (p : Packed) :
    decode (op ++ 0#4 ++ p) = decodeOp op.toNat (op ++ 0#4 ++ p) := by
  rw [decode_of_rsvd_zero (cmdRsvd_fields op 0#4 p), cmdOp_fields]

section Lanes

variable (header p2 p1 p0 : Byte)

theorem four_bytes_eq_header_payload : header ++ p2 ++ p1 ++ p0 = header ++ (p2 ++ p1 ++ p0) := by
  rw [BitVec.append_assoc (x₁ := header), BitVec.cast_eq, BitVec.append_assoc (x₁ := header), BitVec.cast_eq]

theorem decode_four_bytes (op : BitVec 4) :
    decode (op ++ 0#4 ++ p2 ++ p1 ++ p0) = decodeOp op.toNat (op ++ 0#4 ++ p2 ++ p1 ++ p0) := by
  rw [four_bytes_eq_header_payload]
  exact decode_fields op (p2 ++ p1 ++ p0)

theorem cmdP0_four_bytes : cmdP0 (header ++ p2 ++ p1 ++ p0) = p0 := BitVec.extractLsb'_append_eq_right

theorem cmdP1_four_bytes : cmdP1 (header ++ p2 ++ p1 ++ p0) = p1 := by
  calc cmdP1 (header ++ p2 ++ p1 ++ p0)
      = (header ++ p2 ++ p1).extractLsb' 0 8 := BitVec.extractLsb'_append_eq_of_le (by decide)
    _ = p1 := BitVec.extractLsb'_append_eq_right

theorem cmdP2_four_bytes : cmdP2 (header ++ p2 ++ p1 ++ p0) = p2 := by
  calc cmdP2 (header ++ p2 ++ p1 ++ p0)
      = (header ++ p2 ++ p1).extractLsb' 8 8 := BitVec.extractLsb'_append_eq_of_le (by decide)
    _ = (header ++ p2).extractLsb' 0 8 := BitVec.extractLsb'_append_eq_of_le (by decide)
    _ = p2 := BitVec.extractLsb'_append_eq_right

/-- The encoder's three lanes are the lower three bytes of the word. -/
theorem lanes_eq_append : lanes p0 p1 p2 = 0#8 ++ p2 ++ p1 ++ p0 := by
  apply BitVec.eq_of_getLsbD_eq
  intro k hk
  rw [getLsbD_lanes _ _ _ _ hk]
  simp only [BitVec.getLsbD_append]
  interval_cases k <;> simp

theorem header_or_lanes :
    (header ++ 0#8 ++ 0#8 ++ 0#8) ||| lanes p0 p1 p2 = header ++ p2 ++ p1 ++ p0 := by
  rw [lanes_eq_append, BitVec.or_append, BitVec.or_append, BitVec.or_append]
  simp only [BitVec.zero_or, BitVec.or_zero]

end Lanes

/-! ## CLR and the setters -/

theorem decode_clr_payload (p : Packed) : decode (0x10#8 ++ p) = .cmd .clr := decode_fields 0x1#4 p

theorem decode_setpos_bytes (p2 p1 p0 : Byte) :
    decode (0x20#8 ++ p2 ++ p1 ++ p0) = .cmd (.setpos p0.toNat p1.toNat p2.toNat) := by
  calc decode (0x20#8 ++ p2 ++ p1 ++ p0)
      = decodeOp 0x2 (0x20#8 ++ p2 ++ p1 ++ p0) := decode_four_bytes p2 p1 p0 0x2#4
    _ = .cmd (.setpos p0.toNat p1.toNat p2.toNat) := by
        rw [decodeOp, cmdP0_four_bytes, cmdP1_four_bytes, cmdP2_four_bytes]

theorem decode_setvel_bytes (p2 p1 p0 : Byte) :
    decode (0x30#8 ++ p2 ++ p1 ++ p0) = .cmd (.setvel p0.toInt) := by
  calc decode (0x30#8 ++ p2 ++ p1 ++ p0)
      = decodeOp 0x3 (0x30#8 ++ p2 ++ p1 ++ p0) := decode_four_bytes p2 p1 p0 0x3#4
    _ = .cmd (.setvel p0.toInt) := by rw [decodeOp, cmdP0_four_bytes, sval8_eq_toInt]

theorem encode_setpos_bytes (p2 p1 p0 : Byte) :
    encode (.setpos p0.toNat p1.toNat p2.toNat) = 0x20#8 ++ p2 ++ p1 ++ p0 := by
  rw [encode, Instr.payload, BitVec.ofNat_toNat, BitVec.ofNat_toNat, BitVec.ofNat_toNat, BitVec.setWidth_eq,
    BitVec.setWidth_eq, BitVec.setWidth_eq]
  exact header_or_lanes 0x20#8 p2 p1 p0

theorem encode_setvel_byte (p0 : Byte) : encode (.setvel p0.toInt) = 0x300000#24 ++ p0 := by
  rw [encode, Instr.payload, BitVec.ofInt_toInt]
  exact header_or_lanes 0x30#8 0#8 0#8 p0

end Sys2Proof.Laws
end

section
/-! PROOFS. The statements of 40_setters.md on CLR, SETPOS and SETVEL: what each places, bit by bit, and what it
leaves. -/

namespace Sys2Proof.Laws

open Sys2Proof.Machine

/-! ## Placing under a mask

The laws of `placeBits` at an index that is no literal. -/

section Placing

variable {old mask value : Byte} {k : Nat}

theorem getLsbD_placeBits_of_mask (under : mask.getLsbD k = true) :
    (placeBits old mask value).getLsbD k = value.getLsbD k := by
  have byte : k < 8 := BitVec.lt_of_getLsbD under
  rw [BitVec.getLsbD_eq_getElem byte] at under ⊢
  exact placeBits_places byte under

theorem getLsbD_placeBits_of_not_mask (outside : mask.getLsbD k = false) (zero : value.getLsbD k = false) :
    (placeBits old mask value).getLsbD k = old.getLsbD k := by
  by_cases byte : k < 8
  · rw [BitVec.getLsbD_eq_getElem byte] at outside zero ⊢
    exact placeBits_keeps byte outside zero
  · rw [BitVec.getLsbD_of_ge _ _ (by omega), BitVec.getLsbD_of_ge _ _ (by omega)]

end Placing

/-! ## SETPOS, bit by bit

Each byte is written twice: the second write leaves what the first has placed (40_setters.md R81). -/

section Setpos

variable (x : Snapshot) (a b c : Nat) {k : Nat}

theorem setpos_b0 : (x.setpos a b c).b0 =
    placeBits (placeBits x.b0 0x3F#8 (BitVec.ofNat 8 (min a 63))) 0xC0#8
      ((BitVec.ofNat 8 (min b 15) &&& 0x03#8) <<< 6) := by
  simp only [Snapshot.setpos, clampPos_eq_min]

theorem setpos_b1 : (x.setpos a b c).b1 =
    placeBits (placeBits x.b1 0x03#8 (BitVec.ofNat 8 (min b 15) >>> 2)) 0x7C#8
      (BitVec.ofNat 8 (min c 31) <<< 2) := by
  simp only [Snapshot.setpos, clampPos_eq_min]

theorem setpos_b2 : (x.setpos a b c).b2 = x.b2 := rfl

theorem setpos_b0_xTile (h : k < 6) : (x.setpos a b c).b0.getLsbD k = (min a 63).testBit k := by
  have masks : ∀ k < 6, (0x3F#8).getLsbD k = true ∧ (0xC0#8).getLsbD k = false := by decide
  obtain ⟨under, outside⟩ := masks k h
  have byte : k < 8 := by omega
  rw [setpos_b0, getLsbD_placeBits_of_not_mask outside (by simp [h]), getLsbD_placeBits_of_mask under]
  simp [-BitVec.getLsbD_eq_getElem, BitVec.getLsbD_ofNat, byte]

theorem setpos_b0_xSub (h : k < 2) : (x.setpos a b c).b0.getLsbD (k + 6) = (min b 15).testBit k := by
  have masks : ∀ k < 2, (0xC0#8).getLsbD (k + 6) = true ∧ (0x03#8).getLsbD k = true := by decide
  obtain ⟨under, low⟩ := masks k h
  have byte : k + 6 < 8 := by omega
  rw [setpos_b0, getLsbD_placeBits_of_mask under]
  simp [-BitVec.getLsbD_eq_getElem, BitVec.getLsbD_ofNat, low, byte, Nat.lt_of_add_right_lt byte]

theorem setpos_b1_xSub (h : k < 2) : (x.setpos a b c).b1.getLsbD k = (min b 15).testBit (k + 2) := by
  have masks : ∀ k < 2, (0x03#8).getLsbD k = true ∧ (0x7C#8).getLsbD k = false := by decide
  obtain ⟨under, outside⟩ := masks k h
  have byte : k + 2 < 8 := by omega
  rw [setpos_b1, getLsbD_placeBits_of_not_mask outside (by simp [h]), getLsbD_placeBits_of_mask under,
    BitVec.getLsbD_ushiftRight, Nat.add_comm 2 k]
  simp [-BitVec.getLsbD_eq_getElem, BitVec.getLsbD_ofNat, byte]

theorem setpos_b1_yTile (h : k < 5) : (x.setpos a b c).b1.getLsbD (k + 2) = (min c 31).testBit k := by
  have mask : ∀ k < 5, (0x7C#8).getLsbD (k + 2) = true := by decide
  have byte : k + 2 < 8 := by omega
  rw [setpos_b1, getLsbD_placeBits_of_mask (mask k h)]
  simp [-BitVec.getLsbD_eq_getElem, BitVec.getLsbD_ofNat, byte, Nat.lt_of_add_right_lt byte]

/-- The two values placed in byte1 end below the velocity's bit. -/
theorem setpos_b1_velocity : (x.setpos a b c).b1.getLsbD 7 = x.b1.getLsbD 7 := by
  have yTile_ends : (BitVec.ofNat 8 (min c 31) <<< 2).getLsbD 7 = false := by
    have below : (min c 31).testBit 5 = false := Nat.testBit_lt_two_pow (by omega)
    simp [-BitVec.getLsbD_eq_getElem, BitVec.getLsbD_ofNat, below]
  have xSub_ends : (BitVec.ofNat 8 (min b 15) >>> 2).getLsbD 7 = false := by simp
  rw [setpos_b1, getLsbD_placeBits_of_not_mask (by decide) yTile_ends,
    getLsbD_placeBits_of_not_mask (by decide) xSub_ends]

/-- The clamped operands alone fix what SETPOS does. -/
theorem exec_setpos_congr {a b c a' b' c' : Nat} (h : clampPos a b c = clampPos a' b' c') (s : State) :
    exec (.setpos a b c) s = exec (.setpos a' b' c') s := by
  simp only [exec, execSetpos, Snapshot.setpos, h]

end Setpos

/-! ## SETVEL, bit by bit -/

section Setvel

variable (x : Snapshot) (v : Int) {k : Nat}

/-- The pattern that SETVEL stores: two's complement of the clamped operand (40_setters.md R83). -/
theorem enc5_clampS5 : enc5 (clampS5 v) = BitVec.ofInt 5 (max (-16) (min 15 v)) := by
  obtain ⟨low, high⟩ := clampS5_range v
  rw [enc5_eq_ofInt low high, clampS5_eq_max_min]

theorem setvel_b0 : (x.setvel v).b0 = x.b0 := rfl

theorem setvel_b1 : (x.setvel v).b1 =
    placeBits x.b1 0x80#8 (((enc5 (clampS5 v)).setWidth 8 &&& 0x01#8) <<< 7) := rfl

theorem setvel_b2 : (x.setvel v).b2 = placeBits x.b2 0x0F#8 ((enc5 (clampS5 v)).setWidth 8 >>> 1) := rfl

theorem setvel_b1_velocity : (x.setvel v).b1.getLsbD 7 = (enc5 (clampS5 v)).getLsbD 0 := by
  rw [setvel_b1, getLsbD_placeBits_of_mask (by decide)]
  simp

theorem setvel_b1_position (h : k < 7) : (x.setvel v).b1.getLsbD k = x.b1.getLsbD k := by
  have mask : ∀ k < 7, (0x80#8).getLsbD k = false := by decide
  rw [setvel_b1, getLsbD_placeBits_of_not_mask (mask k h) (by simp [h])]

theorem setvel_b2_velocity (h : k < 4) :
    (x.setvel v).b2.getLsbD k = (enc5 (clampS5 v)).getLsbD (k + 1) := by
  have mask : ∀ k < 4, (0x0F#8).getLsbD k = true := by decide
  rw [setvel_b2, getLsbD_placeBits_of_mask (mask k h), BitVec.getLsbD_ushiftRight, BitVec.getLsbD_setWidth,
    Nat.add_comm 1 k]
  simp [show k + 1 < 8 by omega]

/-- The pattern has no bit that reaches the checksum slot. -/
theorem setvel_b2_slot (h : k < 4) : (x.setvel v).b2.getLsbD (k + 4) = x.b2.getLsbD (k + 4) := by
  have mask : ∀ k < 4, (0x0F#8).getLsbD (k + 4) = false := by decide
  have pattern_ends : ((enc5 (clampS5 v)).setWidth 8 >>> 1).getLsbD (k + 4) = false := by
    rw [BitVec.getLsbD_ushiftRight, BitVec.getLsbD_setWidth, BitVec.getLsbD_of_ge _ _ (by omega), Bool.and_false]
  rw [setvel_b2, getLsbD_placeBits_of_not_mask (mask k h) pattern_ends]

/-- The stored pattern after SETVEL is the clamped operand's. -/
theorem setvel_velEnc : (x.setvel v).velEnc = enc5 (clampS5 v) := by
  apply BitVec.eq_of_getLsbD_eq
  intro k hk
  cases k with
  | zero => rw [getLsbD_velEnc_zero, setvel_b1_velocity]
  | succ j =>
    have byte2 : j < 4 := by omega
    rw [getLsbD_velEnc_succ _ byte2, setvel_b2_velocity x v byte2]

/-- The clamped operand alone fixes what SETVEL does. -/
theorem exec_setvel_congr {v v' : Int} (h : clampS5 v = clampS5 v') (s : State) :
    exec (.setvel v) s = exec (.setvel v') s := by
  simp only [exec, execSetvel, Snapshot.setvel, h]

end Setvel

/-! ## What a setter leaves

Of the other fields by the bits they stand in; of the packed value as one run of bits, for SETPOS all above the
position and for SETVEL all on either side of the velocity (40_setters.md R86). -/

section Kept

variable (x : Snapshot) (a b c : Nat) (v : Int)

theorem setpos_velEnc : (x.setpos a b c).velEnc = x.velEnc := by
  apply BitVec.eq_of_getLsbD_eq
  intro k hk
  cases k with
  | zero => rw [getLsbD_velEnc_zero, getLsbD_velEnc_zero, setpos_b1_velocity]
  | succ j =>
    have byte2 : j < 4 := by omega
    rw [getLsbD_velEnc_succ _ byte2, getLsbD_velEnc_succ _ byte2, setpos_b2]

theorem setpos_storedCsum : (x.setpos a b c).storedCsum = x.storedCsum := rfl

theorem setpos_packed_above : (x.setpos a b c).packed.extractLsb' 15 9 = x.packed.extractLsb' 15 9 := by
  apply BitVec.eq_of_getLsbD_eq
  intro k hk
  simp only [BitVec.getLsbD_extractLsb', getLsbD_packed]
  cases k with
  | zero => simp [-BitVec.getLsbD_eq_getElem, setpos_b1_velocity]
  | succ j => simp [show ¬ 15 + (j + 1) < 16 by omega, show ¬ 15 + (j + 1) < 8 by omega, setpos_b2]

theorem setvel_xTile : (x.setvel v).xTile = x.xTile := rfl

theorem setvel_xSub : (x.setvel v).xSub = x.xSub := by
  apply BitVec.eq_of_getLsbD_eq
  intro k hk
  by_cases low : k < 2
  · rw [getLsbD_xSub_low _ low, getLsbD_xSub_low _ low, setvel_b0]
  · obtain ⟨j, rfl⟩ := Nat.exists_eq_add_of_le' (Nat.le_of_not_lt low)
    have high : j < 2 := by omega
    rw [getLsbD_xSub_high _ high, getLsbD_xSub_high _ high, setvel_b1_position x v (by omega)]

theorem setvel_yTile : (x.setvel v).yTile = x.yTile := by
  apply BitVec.eq_of_getLsbD_eq
  intro k hk
  rw [getLsbD_yTile _ hk, getLsbD_yTile _ hk, setvel_b1_position x v (by omega)]

theorem setvel_packed_below : (x.setvel v).packed.extractLsb' 0 15 = x.packed.extractLsb' 0 15 := by
  apply BitVec.eq_of_getLsbD_eq
  intro k hk
  simp only [BitVec.getLsbD_extractLsb', getLsbD_packed, Nat.zero_add]
  by_cases byte0 : k < 8
  · simp only [byte0, if_true, setvel_b0]
  · simp only [byte0, show k < 16 by omega, if_true, if_false, setvel_b1_position x v (show k - 8 < 7 by omega)]

theorem setvel_packed_above : (x.setvel v).packed.extractLsb' 20 4 = x.packed.extractLsb' 20 4 := by
  apply BitVec.eq_of_getLsbD_eq
  intro k hk
  have byte2 : ¬ 20 + k < 16 ∧ ¬ 20 + k < 8 ∧ 20 + k - 16 = k + 4 := by omega
  simp only [BitVec.getLsbD_extractLsb', getLsbD_packed, byte2, if_false, setvel_b2_slot x v hk]

end Kept

/-! ## The corner cases of SETVEL

Each is a fact about the stored pattern alone. -/

theorem clampS5_of_ge {v : Int} (h : 15 ≤ v) : clampS5 v = 15 := by
  rw [clampS5_eq_max_min]
  omega

theorem clampS5_of_le {v : Int} (h : v ≤ -16) : clampS5 v = -16 := by
  rw [clampS5_eq_max_min]
  omega

/-- The pattern's top bit is the sign. -/
theorem enc5_sign {w : Int} (h : -16 ≤ w) (h' : w ≤ 15) : (enc5 w).getLsbD 4 = true ↔ w < 0 := by
  have value : (enc5 w).toInt = w := by rw [← dec5_eq_toInt, dec5_enc5 h h']
  rw [show (enc5 w).getLsbD 4 = (enc5 w).msb from (BitVec.msb_eq_getLsbD_last _).symm, BitVec.msb_eq_toInt, value,
    decide_eq_true_iff]

/-- The pattern's low bit is the parity, of a negative number too. -/
theorem enc5_parity {w : Int} (h : -16 ≤ w) (h' : w ≤ 15) : (enc5 w).getLsbD 0 = true ↔ w % 2 = 1 := by
  have pattern := enc5_toNat h h'
  rw [BitVec.getLsbD, Nat.testBit_zero, decide_eq_true_iff]
  omega

/-- The clamp keeps the sign. -/
theorem clampS5_neg_iff (v : Int) : clampS5 v < 0 ↔ v < 0 := by
  rw [clampS5_eq_max_min]
  omega

/-- The low nibble of byte2 is the pattern's upper four bits (10_state.md R23). -/
theorem b2_low_nibble (x : Snapshot) : x.b2 &&& 0x0F#8 = (x.velEnc >>> 1).setWidth 8 := by
  have mask : ∀ k < 8, (0x0F#8).getLsbD k = decide (k < 4) := by decide
  apply BitVec.eq_of_getLsbD_eq
  intro k hk
  rw [BitVec.getLsbD_and, mask k hk, BitVec.getLsbD_setWidth, BitVec.getLsbD_ushiftRight, Nat.add_comm 1 k]
  by_cases nibble : k < 4
  · simp [-BitVec.getLsbD_eq_getElem, getLsbD_velEnc_succ x nibble, nibble, hk]
  · rw [BitVec.getLsbD_of_ge x.velEnc (k + 1) (by omega)]
    simp [nibble]

/-! ## The statements -/

/-- A writing command that has been executed changes nothing when it is executed again (20_memory.md R45). -/
theorem exec_writer_again {i : Instr} (writes : i.isWriter = true) {s t : State} (once : exec i s = .next t) :
    exec i t = .next t := by
  obtain ⟨u, once', again⟩ := exec_writer_fixed writes s
  cases once.symm.trans once'
  exact again

/-- Settles O23: each operand's bits under its masks, the bits that no mask covers, and the lanes of its word. -/
theorem setposPlacesTheClampedPosition : Obligations.SetposPlacesTheClampedPosition := by
  refine ⟨fun s a b c => ⟨s.answerWrite (s.snap.setpos a b c), rfl, fun k => setpos_b0_xTile _ a b c,
      fun k h => ⟨setpos_b0_xSub _ a b c h, setpos_b1_xSub _ a b c h⟩, fun k => setpos_b1_yTile _ a b c,
      setpos_b1_velocity _ a b c, rfl, rfl, rfl, exec_writer_again (s := s) rfl rfl⟩,
    fun p2 p1 p0 => ⟨decode_setpos_bytes p2 p1 p0, encode_setpos_bytes p2 p1 p0⟩,
    fun s => ⟨exec_setpos_congr (by decide) s, exec_setpos_congr (by decide) s, exec_setpos_congr (by decide) s⟩,
    fun s register => ⟨_, rfl, ?_⟩, fun s register => ⟨_, rfl, ?_⟩⟩
  · rw [answerWrite_snap, register]
    decide
  · rw [answerWrite_snap, register]
    decide

/-- Settles O25: the stored pattern is the clamped operand's, bit by bit, and each corner case reads it off. -/
theorem setvelPlacesTheClampedVelocity : Obligations.SetvelPlacesTheClampedVelocity := by
  refine ⟨fun s v => ?_, fun p2 p1 p0 => ⟨decode_setvel_bytes p2 p1 p0, encode_setvel_byte p0⟩,
    fun s v => ⟨fun above => exec_setvel_congr (clampS5_of_gt above) s,
      fun below => exec_setvel_congr (clampS5_of_lt below) s⟩,
    fun s v t executed => ?_, fun s register => ⟨_, rfl, ?_⟩⟩
  · rw [← enc5_clampS5]
    exact ⟨s.answerWrite (s.snap.setvel v), rfl, setvel_b1_velocity _ v, fun k => setvel_b2_velocity _ v, rfl,
      fun k => setvel_b1_position _ v, fun k => setvel_b2_slot _ v, rfl, rfl, exec_writer_again (s := s) rfl rfl⟩
  · obtain ⟨low, high⟩ := clampS5_range v
    cases executed
    rw [answerWrite_snap, b2_low_nibble, setvel_velEnc, setvel_b1_velocity, setvel_b2_velocity _ v (by decide)]
    refine ⟨?_, ?_, fun top => ?_, fun bottom => ?_, ?_, fun inside inside' => ?_⟩
    · rintro rfl
      decide
    · rintro rfl
      decide
    · rw [clampS5_of_ge top]
      decide
    · rw [clampS5_of_le bottom]
      decide
    · rw [enc5_sign low high, clampS5_neg_iff]
    · rw [clampS5_of_range inside inside', enc5_parity inside inside']
  · rw [answerWrite_snap, register]
    decide

/-- Settles O27: the bits outside the fields that a setter owns, and the fields that stand in them. -/
theorem settersDisturbNothingElse : Obligations.SettersDisturbNothingElse :=
  ⟨fun s a b c => ⟨s.answerWrite (s.snap.setpos a b c), rfl, setpos_packed_above _ a b c, setpos_velEnc _ a b c,
      setpos_storedCsum _ a b c⟩,
    fun s v => ⟨s.answerWrite (s.snap.setvel v), rfl, setvel_packed_below _ v, setvel_packed_above _ v,
      setvel_xTile _ v, setvel_xSub _ v, setvel_yTile _ v⟩,
    fun _ _ _ => rfl⟩

/-- Settles O22: CLR writes zeros whatever was there, and the zero snapshot is the one after reset. -/
theorem clrZeroesTheSnapshot : Obligations.ClrZeroesTheSnapshot := by
  refine ⟨fun s => ⟨rfl, fun zero => ⟨s.answerWrite Snapshot.cleared, rfl, zero.symm⟩⟩, ?_, by decide,
    decode_clr_payload, by decide⟩
  exact ⟨by decide, by decide, by decide, by decide, by decide, by decide, reset_snap⟩

end Sys2Proof.Laws
end

section
/-! PROOFS. The statement of 41_checksum.md on CSUM: the checksum is the XOR of five nibbles of the packed value. -/

namespace Sys2Proof.Laws

open Sys2Proof.Machine

/-! ## The nibbles of a byte

The meaning masks and shifts bytes (41_checksum.md R90); each of the two is the zero-extension of a nibble. -/

theorem low_nibble_setWidth (u : Byte) : (u.extractLsb' 0 4).setWidth 8 = u &&& 0x0F#8 := by
  calc (u.extractLsb' 0 4).setWidth 8 = 0#4 ++ u.setWidth 4 := BitVec.setWidth_eq_append (by decide)
    _ = u &&& (BitVec.allOnes 4).setWidth 8 := (BitVec.and_setWidth_allOnes 4 4 u).symm

theorem high_nibble_setWidth (u : Byte) : (u.extractLsb' 4 4).setWidth 8 = u >>> 4 := by
  calc (u.extractLsb' 4 4).setWidth 8 = 0#4 ++ u.extractLsb' 4 4 := BitVec.setWidth_eq_append (by decide)
    _ = u >>> 4 := (BitVec.ushiftRight_eq_extractLsb'_of_lt (by decide)).symm

/-! ## The nibbles of a snapshot

Two of each byte, from the packed value (00_scope.md R15). The data bits hold nibbles 0 to 4 (10_state.md R25). -/

section Nibbles

variable (x : Snapshot)

theorem nib_packed_zero : nib x.packed 0 = x.b0.extractLsb' 0 4 :=
  BitVec.extractLsb'_append_eq_of_add_le (by decide)

theorem nib_packed_one : nib x.packed 1 = x.b0.extractLsb' 4 4 :=
  BitVec.extractLsb'_append_eq_of_add_le (by decide)

theorem nib_packed_two : nib x.packed 2 = x.b1.extractLsb' 0 4 := by
  calc nib x.packed 2 = (x.b2 ++ x.b1).extractLsb' 0 4 := BitVec.extractLsb'_append_eq_of_le (by decide)
    _ = x.b1.extractLsb' 0 4 := BitVec.extractLsb'_append_eq_of_add_le (by decide)

theorem nib_packed_three : nib x.packed 3 = x.b1.extractLsb' 4 4 := by
  calc nib x.packed 3 = (x.b2 ++ x.b1).extractLsb' 4 4 := BitVec.extractLsb'_append_eq_of_le (by decide)
    _ = x.b1.extractLsb' 4 4 := BitVec.extractLsb'_append_eq_of_add_le (by decide)

theorem nib_packed_four : nib x.packed 4 = x.b2.extractLsb' 0 4 := by
  calc nib x.packed 4 = (x.b2 ++ x.b1).extractLsb' 8 4 := BitVec.extractLsb'_append_eq_of_le (by decide)
    _ = x.b2.extractLsb' 0 4 := BitVec.extractLsb'_append_eq_of_le (by decide)

theorem nib_packed_eq_dataBits {k : Nat} (h : k < 5) : nib x.packed k = x.dataBits.extractLsb' (4 * k) 4 :=
  (BitVec.extractLsb'_extractLsb'_of_le (by omega)).symm

end Nibbles

/-! ## The checksum -/

section Checksum

variable (x : Snapshot)

/-- The first form of R90: the groups of the packed value. -/
theorem csum_eq_nib : x.csum = nib x.packed 0 ^^^ nib x.packed 1 ^^^ nib x.packed 2 ^^^ nib x.packed 3 ^^^
    nib x.packed 4 := by
  rw [nib_packed_zero, nib_packed_one, nib_packed_two, nib_packed_three, nib_packed_four]
  simp only [Snapshot.csum, ← low_nibble_setWidth, ← high_nibble_setWidth, ← BitVec.setWidth_xor]
  rw [BitVec.setWidth_setWidth_of_le _ (by decide), BitVec.setWidth_eq]

/-- The second form of R90: the masked and shifted bytes. -/
theorem csum_setWidth : x.csum.setWidth 8 =
    (x.b0 &&& 0x0F#8) ^^^ (x.b0 >>> 4) ^^^ (x.b1 &&& 0x0F#8) ^^^ (x.b1 >>> 4) ^^^ (x.b2 &&& 0x0F#8) := by
  rw [csum_eq_nib, nib_packed_zero, nib_packed_one, nib_packed_two, nib_packed_three, nib_packed_four]
  simp only [BitVec.setWidth_xor, low_nibble_setWidth, high_nibble_setWidth]

/-- The stored checksum, nibble 5, does not enter (41_checksum.md R90, corner case a). -/
theorem csum_congr {x y : Snapshot} (same_data : x.dataBits = y.dataBits) : x.csum = y.csum := by
  have same_nibble {k : Nat} (h : k < 5) : nib x.packed k = nib y.packed k := by
    rw [nib_packed_eq_dataBits x h, nib_packed_eq_dataBits y h, same_data]
  rw [csum_eq_nib, csum_eq_nib, same_nibble (by decide), same_nibble (by decide), same_nibble (by decide),
    same_nibble (by decide), same_nibble (by decide)]

/-- XOR is commutative and associative, so the groups may come in any order (R90, corner case c). -/
theorem foldl_xor_nibbles_of_perm {l : List (BitVec 4)} (groups : l.Perm ((List.range 5).map (nib x.packed))) :
    l.foldl (· ^^^ ·) 0#4 = x.csum := by
  calc l.foldl (· ^^^ ·) 0#4
      = ((List.range 5).map (nib x.packed)).foldl (· ^^^ ·) 0#4 := groups.foldl_op_eq
    _ = 0#4 ^^^ nib x.packed 0 ^^^ nib x.packed 1 ^^^ nib x.packed 2 ^^^ nib x.packed 3 ^^^ nib x.packed 4 := rfl
    _ = x.csum := by rw [BitVec.zero_xor, csum_eq_nib]

end Checksum

/-! ## The field bits of the groups

A group that holds bits of two fields is two adjacent runs of bits of one byte (R90, corner case e). -/

section Groups

variable (x : Snapshot)

theorem extractLsb'_congr {m n i j len : Nat} {v : BitVec m} {w : BitVec n}
    (same_bits : ∀ k < len, v.getLsbD (i + k) = w.getLsbD (j + k)) : v.extractLsb' i len = w.extractLsb' j len := by
  apply BitVec.eq_of_getLsbD_eq
  intro k hk
  rw [BitVec.getLsbD_extractLsb', BitVec.getLsbD_extractLsb', same_bits k hk]

theorem nib_packed_one_fields : nib x.packed 1 = x.xSub.extractLsb' 0 2 ++ x.xTile.extractLsb' 4 2 := by
  have xSub_low : x.xSub.extractLsb' 0 2 = x.b0.extractLsb' 6 2 :=
    extractLsb'_congr fun k h => by rw [Nat.zero_add, getLsbD_xSub_low x h, Nat.add_comm]
  have xTile_high : x.xTile.extractLsb' 4 2 = x.b0.extractLsb' 4 2 :=
    extractLsb'_congr fun k h => getLsbD_xTile x (by omega)
  rw [nib_packed_one, xSub_low, xTile_high]
  exact Eq.symm (BitVec.extractLsb'_append_extractLsb'_eq_extractLsb' (by decide))

theorem nib_packed_two_fields : nib x.packed 2 = x.yTile.extractLsb' 0 2 ++ x.xSub.extractLsb' 2 2 := by
  have yTile_low : x.yTile.extractLsb' 0 2 = x.b1.extractLsb' 2 2 :=
    extractLsb'_congr fun k h => by rw [Nat.zero_add, getLsbD_yTile x (by omega), Nat.add_comm]
  have xSub_high : x.xSub.extractLsb' 2 2 = x.b1.extractLsb' 0 2 :=
    extractLsb'_congr fun k h => by rw [Nat.zero_add, Nat.add_comm, getLsbD_xSub_high x h]
  rw [nib_packed_two, yTile_low, xSub_high]
  exact Eq.symm (BitVec.extractLsb'_append_extractLsb'_eq_extractLsb' (by decide))

theorem nib_packed_three_fields : nib x.packed 3 = x.velEnc.extractLsb' 0 1 ++ x.yTile.extractLsb' 2 3 := by
  have velEnc_low : x.velEnc.extractLsb' 0 1 = x.b1.extractLsb' 7 1 :=
    extractLsb'_congr fun k h => by rw [Nat.lt_one_iff.mp h]; exact getLsbD_velEnc_zero x
  have yTile_high : x.yTile.extractLsb' 2 3 = x.b1.extractLsb' 4 3 :=
    extractLsb'_congr fun k h => by rw [getLsbD_yTile x (by omega), Nat.add_right_comm]
  rw [nib_packed_three, velEnc_low, yTile_high]
  exact Eq.symm (BitVec.extractLsb'_append_extractLsb'_eq_extractLsb' (by decide))

theorem nib_packed_four_fields : nib x.packed 4 = x.velEnc.extractLsb' 1 4 := by
  rw [nib_packed_four]
  exact extractLsb'_congr fun k h => by rw [Nat.zero_add, Nat.add_comm, getLsbD_velEnc_succ x h]

end Groups

/-! ## The statement -/

/-- Settles O33, from the two forms of the checksum, by nibbles of the packed value and by bytes, and from the field
bits of each nibble. -/
theorem csumAnswersTheXorOfTheDataNibbles : Obligations.CsumAnswersTheXorOfTheDataNibbles := by
  refine ⟨fun s => ?_, csum_setWidth, fun x y => csum_congr,
    fun x => ⟨nib_packed_one_fields x, nib_packed_two_fields x,
      nib_packed_three_fields x, nib_packed_four_fields x⟩,
    fun x l => foldl_xor_nibbles_of_perm x, by decide, fun x all_set => ?_, by decide, decode_fields 0x4#4, by decide⟩
  · rw [← csum_eq_nib]
    rfl
  · calc x.csum = (Snapshot.ofPacked 0x0FFFFF#24).csum := csum_congr (all_set.trans (by decide))
      _ = 0xF#4 := by decide

end Sys2Proof.Laws
end

section
/-! PROOFS. The statements of 42_transfer.md: the register as a checksum slot above 20 data bits, and what SER, DESER
and RAW do to the two parts. -/

namespace Sys2Proof.Laws

open Sys2Proof.Machine

/-! ## The two parts of a snapshot

The checksum slot, which is nibble 5, stands above the data bits (10_state.md R25). -/

section Parts

variable (x : Snapshot)

theorem storedCsum_eq_high_nibble : x.storedCsum = x.b2.extractLsb' 4 4 := by
  rw [Snapshot.storedCsum, ← high_nibble_setWidth, BitVec.setWidth_setWidth_of_le _ (by decide), BitVec.setWidth_eq]

theorem dataBits_eq_append : x.dataBits = x.b2.extractLsb' 0 4 ++ x.b1 ++ x.b0 := by
  rw [← nib_packed_four, ← packed_extract_b1, ← packed_extract_b0, nib,
    BitVec.extractLsb'_append_extractLsb'_eq_extractLsb' (by decide),
    BitVec.extractLsb'_append_extractLsb'_eq_extractLsb' (by decide)]
  rfl

theorem nib_packed_five : nib x.packed 5 = x.storedCsum := by
  calc nib x.packed 5
      = (x.b2 ++ x.b1).extractLsb' 12 4 := BitVec.extractLsb'_append_eq_of_le (by decide)
    _ = x.b2.extractLsb' 4 4 := BitVec.extractLsb'_append_eq_of_le (by decide)
    _ = x.storedCsum := (storedCsum_eq_high_nibble x).symm

theorem packed_eq_slot_append_data : x.packed = x.storedCsum ++ x.dataBits := by
  calc x.packed = x.packed.extractLsb' 0 24 := BitVec.extractLsb'_eq_self.symm
    _ = nib x.packed 5 ++ x.dataBits := Eq.symm (BitVec.extractLsb'_append_extractLsb'_eq_extractLsb' (by decide))
    _ = x.storedCsum ++ x.dataBits := by rw [nib_packed_five]

theorem packed_and_data_mask : x.packed &&& 0x0FFFFF#24 = x.dataBits.setWidth 24 := by
  calc x.packed &&& 0x0FFFFF#24
      = (x.storedCsum ++ x.dataBits) &&& (0#4 ++ BitVec.allOnes 20) := by rw [packed_eq_slot_append_data]; rfl
    _ = 0#4 ++ x.dataBits := by rw [BitVec.and_append, BitVec.and_zero, BitVec.and_allOnes]
    _ = x.dataBits.setWidth 24 := Eq.symm (BitVec.setWidth_eq_append (by decide))

theorem snapshot_eq_of_parts {x y : Snapshot} (same_slot : x.storedCsum = y.storedCsum)
    (same_data : x.dataBits = y.dataBits) : x = y :=
  snapshot_eq_of_packed (by rw [packed_eq_slot_append_data, packed_eq_slot_append_data, same_slot, same_data])

theorem ofPacked_packed : Snapshot.ofPacked x.packed = x :=
  Snapshot.ext (packed_extract_b0 x) (packed_extract_b1 x) (packed_extract_b2 x)

theorem isValid_iff : x.isValid = true ↔ x.storedCsum = x.csum := beq_iff_eq

end Parts

/-! ## The serialized buffer

Its data bits are the register's and its slot holds their checksum (42_transfer.md R100); the other facts follow from
these two. -/

section Ser

variable (x : Snapshot)

theorem shifted_or_eq_append {m n : Nat} (high : BitVec m) (low : BitVec n) :
    (high.setWidth (m + n) <<< n) ||| low.setWidth (m + n) = high ++ low := by
  rw [← BitVec.setWidth_append_eq_shiftLeft_setWidth_or, BitVec.setWidth_eq]

theorem ser_b2 : x.ser.b2 = x.csum ++ x.b2.extractLsb' 0 4 := by
  calc x.ser.b2 = (x.csum.setWidth 8 <<< 4) ||| (x.b2 &&& 0x0F#8) := rfl
    _ = (x.csum.setWidth 8 <<< 4) ||| (x.b2.extractLsb' 0 4).setWidth 8 := by rw [low_nibble_setWidth]
    _ = x.csum ++ x.b2.extractLsb' 0 4 := shifted_or_eq_append x.csum (x.b2.extractLsb' 0 4)

theorem ser_b2_low : x.ser.b2.extractLsb' 0 4 = x.b2.extractLsb' 0 4 := by
  rw [ser_b2]
  exact BitVec.extractLsb'_append_eq_right

theorem ser_storedCsum : x.ser.storedCsum = x.csum := by
  rw [storedCsum_eq_high_nibble, ser_b2]
  exact BitVec.extractLsb'_append_eq_left

theorem ser_dataBits : x.ser.dataBits = x.dataBits := by
  rw [dataBits_eq_append, dataBits_eq_append, ser_b2_low]
  rfl

theorem ser_isValid : x.ser.isValid = true := by
  rw [isValid_iff, ser_storedCsum, csum_congr (ser_dataBits x)]

/-- The stored checksum has no influence on the buffer (R100, corner case a). -/
theorem ser_congr {x y : Snapshot} (same_data : x.dataBits = y.dataBits) : x.ser = y.ser := by
  apply snapshot_eq_of_parts
  · rw [ser_storedCsum, ser_storedCsum, csum_congr same_data]
  · rw [ser_dataBits, ser_dataBits, same_data]

theorem ser_ser : x.ser.ser = x.ser := ser_congr (ser_dataBits x)

theorem ser_eq_self_iff : x.ser = x ↔ x.isValid = true := by
  constructor
  · intro same
    rw [← same]
    exact ser_isValid x
  · intro valid
    exact snapshot_eq_of_parts ((ser_storedCsum x).trans ((isValid_iff x).mp valid).symm) (ser_dataBits x)

/-- The packed form of R100. -/
theorem ser_packed : x.ser.packed = (x.packed &&& 0x0FFFFF#24) ||| (x.csum.setWidth 24 <<< 20) := by
  calc x.ser.packed
      = x.csum ++ x.dataBits := by rw [packed_eq_slot_append_data, ser_storedCsum, ser_dataBits]
    _ = (x.csum.setWidth 24 <<< 20) ||| x.dataBits.setWidth 24 := (shifted_or_eq_append ..).symm
    _ = (x.packed &&& 0x0FFFFF#24) ||| (x.csum.setWidth 24 <<< 20) := by
        rw [packed_and_data_mask, BitVec.or_comm]

end Ser

/-! ## The three commands -/

section Commands

variable (s : State)

theorem exec_ser : exec .ser s = .next (s.answerRead s.snap.ser.packed) :=
  congrArg (fun d => Host.Outcome.next (s.answerRead d)) (asData_eq_packed s.snap.ser)

theorem exec_raw : exec .raw s = .next (s.answerRead s.snap.packed) :=
  congrArg (fun d => Host.Outcome.next (s.answerRead d)) (asData_eq_packed s.snap)

theorem exec_deser (b0 b1 b2 : Byte) : exec (.deser b0 b1 b2) s = .next (s.answerWrite ⟨b0, b1, b2⟩) := rfl

/-- DESER of the three bytes of a response, fed back as operands. -/
theorem exec_deser_bytes_of_packed (x : Snapshot) :
    exec (.deser (x.packed.extractLsb' 0 8) (x.packed.extractLsb' 8 8) (x.packed.extractLsb' 16 8)) s =
      .next (s.answerWrite x) := by
  rw [packed_extract_b0, packed_extract_b1, packed_extract_b2, exec_deser]

/-- SER agrees with RAW on a valid register alone (R104). -/
theorem exec_raw_eq_exec_ser_iff : exec .raw s = exec .ser s ↔ s.snap.isValid = true := by
  rw [exec_raw, exec_ser, ← ser_eq_self_iff]
  constructor
  · intro same
    have same_rsp := congrArg State.rsp (Host.Outcome.next.inj same)
    simp only [answerRead_rsp, Option.some.injEq, Response.mk.injEq, true_and] at same_rsp
    exact (snapshot_eq_of_packed same_rsp).symm
  · intro same
    rw [same]

variable {s}

theorem exec_ser_of_snap {x : Snapshot} {d : Packed} (register : s.snap = x) (buffer : x.ser.packed = d) :
    exec .ser s = .next (s.answerRead d) := by
  rw [exec_ser, register, buffer]

theorem exec_raw_of_snap {x : Snapshot} {d : Packed} (register : s.snap = x) (buffer : x.packed = d) :
    exec .raw s = .next (s.answerRead d) := by
  rw [exec_raw, register, buffer]

/-- Every command completes, on a register of any value (60_exceptions.md R140). -/
theorem exec_completes (i : Instr) (s : State) : ∃ t, exec i s = .next t := by
  obtain ⟨y, d, answered⟩ := exec_same_register i s.snap
  exact ⟨s.answer y d, answered s rfl⟩

theorem setvel_storedCsum (x : Snapshot) (v : Int) : (x.setvel v).storedCsum = x.storedCsum := by
  rw [← nib_packed_five, ← nib_packed_five]
  exact setvel_packed_above x v

/-- Only DESER puts a stored checksum into a register whose slot is 0 (R102, corner case c). -/
theorem exec_keeps_slot_zero {i : Instr} {t : State} (executed : exec i s = .next t) (other : i.isDeser = false)
    (zero : s.snap.storedCsum = 0#4) : t.snap.storedCsum = 0#4 := by
  cases i with
  | clr =>
    cases executed
    rw [answerWrite_snap]
    decide
  | setpos a b c => cases executed; exact (setpos_storedCsum s.snap a b c).trans zero
  | setvel v => cases executed; exact (setvel_storedCsum s.snap v).trans zero
  | deser b0 b1 b2 => exact absurd other (by simp [Instr.isDeser])
  | csum | valid | ser | raw | getpos | getvel => cases executed; exact zero

end Commands

/-! ## The words of DESER -/

theorem decode_deser_bytes (p2 p1 p0 : Byte) : decode (0x70#8 ++ p2 ++ p1 ++ p0) = .cmd (.deser p0 p1 p2) := by
  calc decode (0x70#8 ++ p2 ++ p1 ++ p0)
      = decodeOp 0x7 (0x70#8 ++ p2 ++ p1 ++ p0) := decode_four_bytes p2 p1 p0 0x7#4
    _ = .cmd (.deser p0 p1 p2) := by rw [decodeOp, cmdP0_four_bytes, cmdP1_four_bytes, cmdP2_four_bytes]

theorem encode_deser_bytes (p2 p1 p0 : Byte) : encode (.deser p0 p1 p2) = 0x70#8 ++ p2 ++ p1 ++ p0 :=
  header_or_lanes 0x70#8 p2 p1 p0

/-! ## The statements -/

/-- Settles O40: the answer is the packed value of the serialized buffer, and each clause is a fact about that. -/
theorem serAnswersTheBufferWithAFreshChecksum : Obligations.SerAnswersTheBufferWithAFreshChecksum := by
  refine ⟨fun s => ?_, fun s₁ s₂ same_data => ⟨_, _, exec_ser s₁, exec_ser s₂, ?_⟩, by decide, decode_fields 0x6#4,
    fun s register => exec_ser_of_snap register (by decide), fun s register => exec_ser_of_snap register (by decide)⟩
  · have round_trip : exec .ser ((s.answerRead s.snap.ser.packed).answerWrite s.snap.ser) =
        .next (((s.answerRead s.snap.ser.packed).answerWrite s.snap.ser).answerRead s.snap.ser.packed) :=
      exec_ser_of_snap (answerWrite_snap _ _) (congrArg Snapshot.packed (ser_ser s.snap))
    refine ⟨s.answerRead s.snap.ser.packed, s.snap.ser.packed, exec_ser s, rfl, packed_extract_b0 _,
      packed_extract_b1 _, (nib_packed_four _).trans (ser_b2_low _), (nib_packed_five _).trans (ser_storedCsum _),
      ser_packed _, ?_, fun valid => ?_, _, exec_deser_bytes_of_packed _ _, ser_storedCsum _, ser_dataBits _,
      _, round_trip, rfl⟩
    · rw [ofPacked_packed]
      exact ser_isValid s.snap
    · rw [(ser_eq_self_iff s.snap).mpr valid]
  · rw [answerRead_rsp, answerRead_rsp, ser_congr same_data]

/-- Settles O41: DESER writes its operands whatever they are, so it undoes RAW and completes SER. -/
theorem deserCopiesTheBufferVerbatim : Obligations.DeserCopiesTheBufferVerbatim := by
  refine ⟨fun s x y z => exec_deser s x y z, fun p2 p1 p0 => ⟨decode_deser_bytes p2 p1 p0, encode_deser_bytes p2 p1 p0⟩,
    fun s => rfl, fun i s t executed zero nonzero => ?_,
    fun s x y z invalid => ⟨_, exec_deser s x y z, invalid, fun i => exec_completes i _⟩,
    fun s s' => ⟨_, _, _, exec_raw s, rfl, exec_deser_bytes_of_packed s' s.snap, rfl⟩,
    fun s s' => ⟨_, _, _, exec_ser s, rfl, exec_deser_bytes_of_packed s' s.snap.ser, ser_dataBits s.snap,
      ser_storedCsum s.snap⟩, by decide, by decide, by decide⟩
  by_contra other
  exact nonzero (exec_keeps_slot_zero executed (Bool.eq_false_of_not_eq_true other) zero)

/-- Settles O42: the answer is the packed value itself, which the serialized buffer equals on a valid register alone. -/
theorem rawAnswersTheRegisterVerbatim : Obligations.RawAnswersTheRegisterVerbatim := by
  refine ⟨exec_raw, exec_raw_eq_exec_ser_iff, exec_raw_of_snap reset_snap (by decide), fun s => ?_, by decide,
    decode_fields 0x8#4, fun s register => ⟨_, exec_raw_of_snap (d := 0x0DA14A#24) register (by decide), rfl⟩⟩
  have cleared : exec .clr s = .next (s.answerWrite Snapshot.cleared) := rfl
  have answered : exec .raw (s.answerWrite Snapshot.cleared) =
      .next ((s.answerWrite Snapshot.cleared).answerRead 0x000000#24) :=
    exec_raw_of_snap (answerWrite_snap _ _) (by decide)
  exact ⟨_, (execAll_cons_of_next [.raw] cleared).trans (execAll_singleton_of_next answered), rfl⟩

end Sys2Proof.Laws
end

section
/-! PROOFS. The statements of 43_decode.md: the fields as response bytes, and what GETPOS and GETVEL answer. -/

namespace Sys2Proof.Laws

open Sys2Proof.Machine

/-! ## Response data of three bytes

Each byte is read back from its place, and the data as a number is the bytes at weights 1, 256 and 65536
(30_encoding.md R67). -/

section Data

variable (d0 d1 d2 : Byte)

theorem data3_extract_zero : (data3 d0 d1 d2).extractLsb' 0 8 = d0 := by
  rw [data3_eq_append]
  exact packed_extract_b0 ⟨d0, d1, d2⟩

theorem data3_extract_one : (data3 d0 d1 d2).extractLsb' 8 8 = d1 := by
  rw [data3_eq_append]
  exact packed_extract_b1 ⟨d0, d1, d2⟩

theorem data3_extract_two : (data3 d0 d1 d2).extractLsb' 16 8 = d2 := by
  rw [data3_eq_append]
  exact packed_extract_b2 ⟨d0, d1, d2⟩

theorem data3_toNat : (data3 d0 d1 d2).toNat = d0.toNat + 256 * d1.toNat + 65536 * d2.toNat := by
  rw [data3_eq_append, BitVec.toNat_append, BitVec.toNat_append, ← Nat.shiftLeft_add_eq_or_of_lt d1.isLt,
    ← Nat.shiftLeft_add_eq_or_of_lt d0.isLt, Nat.shiftLeft_eq, Nat.shiftLeft_eq]
  omega

end Data

/-! ## The fields as bytes

The field functions cut a masked or joined byte to the field's width; that byte has no bit beyond it, so zero-extending
the field gives the byte back (10_state.md R25). -/

section FieldBytes

/-- The two parts of a field that crosses a byte boundary, joined in a byte, end where their widths say. -/
theorem joined_parts_lt {high low : Byte} {m n : Nat} (high_ends : high.toNat < 2 ^ m)
    (low_ends : low.toNat < 2 ^ n) : ((high <<< n) ||| low).toNat < 2 ^ (m + n) := by
  have shifted : (high <<< n).toNat ≤ high.toNat * 2 ^ n := by
    rw [BitVec.toNat_shiftLeft, Nat.shiftLeft_eq]
    exact Nat.mod_le _ _
  rw [BitVec.toNat_or]
  refine Nat.or_lt_two_pow ?_ (low_ends.trans_le (Nat.pow_le_pow_right (by decide) (by omega)))
  calc (high <<< n).toNat
      ≤ high.toNat * 2 ^ n := shifted
    _ < 2 ^ m * 2 ^ n := Nat.mul_lt_mul_of_pos_right high_ends (Nat.two_pow_pos n)
    _ = 2 ^ (m + n) := (Nat.pow_add ..).symm

theorem setWidth_setWidth_of_toNat_lt {u : Byte} {n : Nat} (h : u.toNat < 2 ^ n) : (u.setWidth n).setWidth 8 = u := by
  apply BitVec.eq_of_toNat_eq
  rw [BitVec.toNat_setWidth, BitVec.toNat_setWidth, Nat.mod_eq_of_lt h, Nat.mod_eq_of_lt u.isLt]

theorem ushiftRight_toNat_lt {u : Byte} {k n : Nat} (h : 8 ≤ k + n) : (u >>> k).toNat < 2 ^ n := by
  rw [BitVec.toNat_ushiftRight, Nat.shiftRight_eq_div_pow]
  apply Nat.div_lt_of_lt_mul
  rw [← Nat.pow_add]
  exact u.isLt.trans_le (Nat.pow_le_pow_right (by decide) h)

variable (x : Snapshot)

theorem xTile_setWidth : x.xTile.setWidth 8 = x.b0 &&& 0x3F#8 :=
  setWidth_setWidth_of_toNat_lt (Nat.and_lt_two_pow _ (by decide))

theorem xSub_setWidth : x.xSub.setWidth 8 = ((x.b1 &&& 0x03#8) <<< 2) ||| (x.b0 >>> 6) :=
  setWidth_setWidth_of_toNat_lt
    (joined_parts_lt (m := 2) (Nat.and_lt_two_pow _ (by decide)) (ushiftRight_toNat_lt (by decide)))

theorem yTile_setWidth : x.yTile.setWidth 8 = (x.b1 >>> 2) &&& 0x1F#8 :=
  setWidth_setWidth_of_toNat_lt (Nat.and_lt_two_pow _ (by decide))

theorem velEnc_setWidth : x.velEnc.setWidth 8 = ((x.b2 &&& 0x0F#8) <<< 1) ||| (x.b1 >>> 7) :=
  setWidth_setWidth_of_toNat_lt
    (joined_parts_lt (m := 4) (Nat.and_lt_two_pow _ (by decide)) (ushiftRight_toNat_lt (by decide)))

/-- The sign extension by comparison and OR, on the byte that the pattern is read as (43_decode.md R111). -/
theorem sext8_eq_ite_byte (e : BitVec 5) :
    sext8 e = if (e.setWidth 8).toNat < 16 then e.setWidth 8 else e.setWidth 8 ||| 0xE0#8 := by
  rw [sext8, BitVec.toNat_setWidth_of_le (by decide)]

/-- A field of `n` bits is at most `2 ^ n - 1` as a response byte. -/
theorem setWidth_le_of_field {n : Nat} (e : BitVec n) {m : Byte} (h : 2 ^ n ≤ m.toNat + 1) : e.setWidth 8 ≤ m := by
  have field : e.toNat < 2 ^ n := e.isLt
  have extended : (e.setWidth 8).toNat ≤ e.toNat := by
    rw [BitVec.toNat_setWidth]
    exact Nat.mod_le _ _
  rw [BitVec.le_def]
  omega

end FieldBytes

/-! ## The bytes in the data bits

No accessor reads the checksum slot: byte0, byte1 and the low nibble of byte2 are all that the fields stand in
(10_state.md R23). -/

section DataBits

variable (x : Snapshot)

theorem dataBits_extract_b0 : x.dataBits.extractLsb' 0 8 = x.b0 :=
  (BitVec.extractLsb'_extractLsb'_of_le (by decide)).trans (packed_extract_b0 x)

theorem dataBits_extract_b1 : x.dataBits.extractLsb' 8 8 = x.b1 :=
  (BitVec.extractLsb'_extractLsb'_of_le (by decide)).trans (packed_extract_b1 x)

theorem dataBits_extract_b2_low : x.dataBits.extractLsb' 16 4 = x.b2.extractLsb' 0 4 :=
  (nib_packed_eq_dataBits x (by decide)).symm.trans (nib_packed_four x)

end DataBits

/-! ## The position fields after SETPOS

Field by field, the clamped operands (40_setters.md R81). -/

section SetposFields

variable (x : Snapshot) (a b c : Nat)

theorem setpos_xTile : (x.setpos a b c).xTile = BitVec.ofNat 6 (min a 63) := by
  apply BitVec.eq_of_getLsbD_eq
  intro k hk
  rw [getLsbD_xTile _ hk, setpos_b0_xTile x a b c hk, BitVec.getLsbD_ofNat, decide_eq_true hk, Bool.true_and]

theorem setpos_xSub : (x.setpos a b c).xSub = BitVec.ofNat 4 (min b 15) := by
  apply BitVec.eq_of_getLsbD_eq
  intro k hk
  rw [BitVec.getLsbD_ofNat, decide_eq_true hk, Bool.true_and]
  by_cases low : k < 2
  · rw [getLsbD_xSub_low _ low, setpos_b0_xSub x a b c low]
  · obtain ⟨j, rfl⟩ := Nat.exists_eq_add_of_le' (Nat.le_of_not_lt low)
    have high : j < 2 := by omega
    rw [getLsbD_xSub_high _ high, setpos_b1_xSub x a b c high]

theorem setpos_yTile : (x.setpos a b c).yTile = BitVec.ofNat 5 (min c 31) := by
  apply BitVec.eq_of_getLsbD_eq
  intro k hk
  rw [getLsbD_yTile _ hk, setpos_b1_yTile x a b c hk, BitVec.getLsbD_ofNat, decide_eq_true hk, Bool.true_and]

end SetposFields

/-! ## The two answers -/

/-- The data that GETPOS answers (43_decode.md R110). -/
def positionData (x : Snapshot) : Packed := data3 (x.xTile.setWidth 8) (x.xSub.setWidth 8) (x.yTile.setWidth 8)

/-- The data that GETVEL answers (43_decode.md R111). -/
def velocityData (x : Snapshot) : Packed := (sext8 x.velEnc).setWidth 24

section Answers

theorem exec_getpos (s : State) : exec .getpos s = .next (s.answerRead (positionData s.snap)) := rfl

theorem exec_getvel (s : State) : exec .getvel s = .next (s.answerRead (velocityData s.snap)) := rfl

theorem exec_getpos_of_snap {s : State} {x : Snapshot} {d : Packed} (register : s.snap = x)
    (fields : positionData x = d) : exec .getpos s = .next (s.answerRead d) := by
  rw [exec_getpos, register, fields]

theorem exec_getvel_of_snap {s : State} {x : Snapshot} {d : Packed} (register : s.snap = x)
    (field : velocityData x = d) : exec .getvel s = .next (s.answerRead d) := by
  rw [exec_getvel, register, field]

variable (x : Snapshot)

theorem positionData_toNat :
    (positionData x).toNat = x.xTile.toNat + 256 * x.xSub.toNat + 65536 * x.yTile.toNat := by
  rw [positionData, data3_toNat, BitVec.toNat_setWidth_of_le (by decide), BitVec.toNat_setWidth_of_le (by decide),
    BitVec.toNat_setWidth_of_le (by decide)]

/-- The greatest answer has every position field full (R110, corner case d). -/
theorem positionData_le : positionData x ≤ 0x1F0F3F#24 := by
  have xTile_lt : x.xTile.toNat < 2 ^ 6 := x.xTile.isLt
  have xSub_lt : x.xSub.toNat < 2 ^ 4 := x.xSub.isLt
  have yTile_lt : x.yTile.toNat < 2 ^ 5 := x.yTile.isLt
  rw [BitVec.le_def, positionData_toNat]
  show _ ≤ 0x1F0F3F
  omega

theorem positionData_setpos (a b c : Nat) : positionData (x.setpos a b c) =
    data3 ((BitVec.ofNat 6 (min a 63)).setWidth 8) ((BitVec.ofNat 4 (min b 15)).setWidth 8)
      ((BitVec.ofNat 5 (min c 31)).setWidth 8) := by
  rw [positionData, setpos_xTile, setpos_xSub, setpos_yTile]

/-- The velocity's byte stands below 16 zeros: the sign goes no further than bit 7. -/
theorem velocityData_eq_append : velocityData x = 0#16 ++ sext8 x.velEnc := BitVec.setWidth_eq_append (by decide)

theorem velocityData_low : (velocityData x).extractLsb' 0 8 = sext8 x.velEnc := by
  rw [velocityData_eq_append]
  exact BitVec.extractLsb'_append_eq_right

theorem velocityData_high : (velocityData x).extractLsb' 8 16 = 0#16 := by
  rw [velocityData_eq_append]
  exact BitVec.extractLsb'_append_eq_left

theorem velocityData_of_velEnc {x : Snapshot} {e : BitVec 5} (pattern : x.velEnc = e) :
    velocityData x = (sext8 e).setWidth 24 := by
  rw [velocityData, pattern]

/-- Read as a signed byte, the sign-extended pattern is the velocity. -/
theorem sext8_velEnc_toInt : (sext8 x.velEnc).toInt = x.vel := by
  rw [sext8_eq_signExtend, BitVec.toInt_signExtend_of_le (by decide), vel_eq_toInt]

variable {x} {y : Snapshot}

theorem positionData_congr (same_data : x.dataBits = y.dataBits) : positionData x = positionData y := by
  simp only [positionData, xTile_setWidth, xSub_setWidth, yTile_setWidth, ← dataBits_extract_b0,
    ← dataBits_extract_b1, same_data]

theorem velEnc_congr (same_data : x.dataBits = y.dataBits) : x.velEnc = y.velEnc := by
  simp only [Snapshot.velEnc, ← low_nibble_setWidth, ← dataBits_extract_b2_low, ← dataBits_extract_b1, same_data]

theorem velocityData_congr (same_data : x.dataBits = y.dataBits) : velocityData x = velocityData y :=
  velocityData_of_velEnc (velEnc_congr same_data)

end Answers

/-! ## The statements -/

/-- Settles O45: the answer is the three fields as bytes, and each clause reads one of them. -/
theorem getposAnswersThePositionFields : Obligations.GetposAnswersThePositionFields := by
  refine ⟨fun s => ?_, by decide, decode_fields 0x9#4, fun s register => exec_getpos_of_snap register (by decide)⟩
  have byte0 : (positionData s.snap).extractLsb' 0 8 = s.snap.xTile.setWidth 8 := data3_extract_zero ..
  have byte1 : (positionData s.snap).extractLsb' 8 8 = s.snap.xSub.setWidth 8 := data3_extract_one ..
  have byte2 : (positionData s.snap).extractLsb' 16 8 = s.snap.yTile.setWidth 8 := data3_extract_two ..
  refine ⟨s.answerRead (positionData s.snap), positionData s.snap, exec_getpos s, rfl,
    byte0.trans (xTile_setWidth _), byte1.trans (xSub_setWidth _), byte2.trans (yTile_setWidth _),
    positionData_toNat _, fun full => ?_, fun zero => ?_, ?_, ?_, ?_, positionData_le _⟩
  · rw [byte2, yTile_setWidth, full]
    decide
  · rw [zero]
    decide
  · rw [byte2]
    exact setWidth_le_of_field _ (by decide)
  · rw [byte1]
    exact setWidth_le_of_field _ (by decide)
  · rw [byte0]
    exact setWidth_le_of_field _ (by decide)

/-- Settles O46: the answer is the sign-extended pattern below 16 zeros, and each corner case is one pattern. -/
theorem getvelAnswersTheSignExtendedVelocity : Obligations.GetvelAnswersTheSignExtendedVelocity := by
  refine ⟨fun s => ?_, by decide, decode_fields 0xA#4, fun s register => exec_getvel_of_snap register (by decide)⟩
  have byte0 := velocityData_low s.snap
  refine ⟨s.answerRead (velocityData s.snap), velocityData s.snap, exec_getvel s, rfl, ?_,
    byte0.trans (sext8_eq_signExtend _), velocityData_high _, ?_, velocityData_of_velEnc, velocityData_of_velEnc,
    velocityData_of_velEnc, velocityData_of_velEnc,
    fun slot_only b1_zero => velocityData_of_velEnc (e := 0#5) ?_⟩
  · rw [byte0, sext8_velEnc_toInt]
  · rw [byte0, sext8_eq_ite_byte, velEnc_setWidth]
  · rw [Snapshot.velEnc, slot_only, b1_zero]
    decide

/-- Settles O47: the fields after SETPOS are its clamped operands, and the data bits alone fix both answers. -/
theorem accessorsReturnWhatIsStored : Obligations.AccessorsReturnWhatIsStored := by
  refine ⟨fun s => ?_, fun i accessor s₁ s₂ same_data => ?_⟩
  · have stored : exec (.setpos 200 200 200) s = .next (s.answerWrite (s.snap.setpos 200 200 200)) := rfl
    have answered : exec .getpos (s.answerWrite (s.snap.setpos 200 200 200)) =
        .next ((s.answerWrite (s.snap.setpos 200 200 200)).answerRead 0x1F0F3F#24) :=
      exec_getpos_of_snap (answerWrite_snap _ _) ((positionData_setpos ..).trans (by decide))
    exact ⟨_, (execAll_cons_of_next [.getpos] stored).trans (execAll_singleton_of_next answered), rfl⟩
  · simp only [List.mem_cons, List.not_mem_nil, or_false] at accessor
    rcases accessor with rfl | rfl
    · refine ⟨_, _, positionData s₁.snap, exec_getpos s₁, exec_getpos s₂, rfl, rfl, rfl, ?_⟩
      rw [answerRead_rsp, positionData_congr same_data]
    · refine ⟨_, _, velocityData s₁.snap, exec_getvel s₁, exec_getvel s₂, rfl, rfl, rfl, ?_⟩
      rw [answerRead_rsp, velocityData_congr same_data]

end Sys2Proof.Laws
end

section
/-! PROOFS. The statements of 60_exceptions.md: nothing ever faults, and an operand out of range is clamped in
silence. -/

namespace Sys2Proof.Laws

open Sys2Proof.Machine

/-! ## Everything completes

A command, a clock edge, a cycle and a run, each from the one before it (60_exceptions.md R140). -/

/-- Reader or writer, a legal command answers OK. -/
theorem exec_answers_ok (i : Instr) (s : State) : ∃ t, exec i s = .next t ∧ ∃ d, t.rsp = some ⟨.ok, d⟩ := by
  rcases exec_cases i s with ⟨_, d, answered⟩ | ⟨_, x, written⟩
  · exact ⟨s.answerRead d, answered, d, answerRead_rsp s d⟩
  · exact ⟨s.answerWrite x, written, 0#24, answerWrite_rsp s x⟩

theorem clockEdge_completes (p : PortIn) (s : State) : ∃ t, clockEdge p s = .next t := by
  rcases clockEdge_cases p s with ⟨_, reset⟩ | ⟨_, _, i, _, executed⟩ | ⟨_, _, _, illegal⟩ | ⟨_, _, idle⟩
  · exact ⟨s.resetCycle, reset⟩
  · obtain ⟨t, completed⟩ := exec_completes i s
    exact ⟨t, executed.trans completed⟩
  · exact ⟨s.answerIllegal, illegal⟩
  · exact ⟨s.idleCycle, idle⟩

theorem step_completes (s : State) : ∃ t, step s = .next t := clockEdge_completes s.sample.1 s.sample.2

theorem after_completes (s : State) (n : Nat) : ∃ t, s.after n = .next t := by
  induction n generalizing s with
  | zero => exact ⟨s, after_zero s⟩
  | succ n ih =>
    obtain ⟨t, stepped⟩ := step_completes s
    obtain ⟨u, ran⟩ := ih t
    exact ⟨u, (after_succ_of_next n stepped).trans ran⟩

/-! ## Clamping a clamped operand

It changes nothing, so a setter cannot tell an operand out of range from the bound that stands for it (R141). -/

theorem clampPos_clamped (a b c : Nat) : clampPos (min a 63) (min b 15) (min c 31) = clampPos a b c := by
  simp only [clampPos_eq_min, Nat.min_assoc, Nat.min_self]

theorem clampS5_clamped (v : Int) : clampS5 (max (-16) (min 15 v)) = clampS5 v := by
  obtain ⟨low, high⟩ := clampS5_range v
  rw [← clampS5_eq_max_min, clampS5_of_range low high]

/-- The velocity read after SETVEL is the clamped operand. -/
theorem setvel_vel (x : Snapshot) (v : Int) : (x.setvel v).vel = clampS5 v := by
  obtain ⟨low, high⟩ := clampS5_range v
  rw [Snapshot.vel, setvel_velEnc, dec5_enc5 low high]

/-! ## The statements -/

/-- Settles O9: what one command answers, and the induction on the number of cycles. -/
theorem nothingEverFaults : Obligations.NothingEverFaults := ⟨exec_answers_ok, after_completes⟩

/-- Settles O28: the clamp alone fixes what a setter does, and each field beyond its bound reads the bound. -/
theorem rangeViolationIsASilentClamp : Obligations.RangeViolationIsASilentClamp := by
  refine ⟨fun s a b c => ⟨exec_setpos_congr (clampPos_clamped a b c).symm s, s.answerWrite (s.snap.setpos a b c), rfl,
      rfl, fun above => ?_, fun above => ?_, fun above => ?_⟩,
    fun s v => ⟨exec_setvel_congr (clampS5_clamped v).symm s, s.answerWrite (s.snap.setvel v), rfl, rfl,
      fun above => (setvel_vel s.snap v).trans (clampS5_of_gt above),
      fun below => (setvel_vel s.snap v).trans (clampS5_of_lt below)⟩⟩
  · rw [answerWrite_snap, setpos_xTile, Nat.min_eq_right above.le]
  · rw [answerWrite_snap, setpos_xSub, Nat.min_eq_right above.le]
  · rw [answerWrite_snap, setpos_yTile, Nat.min_eq_right above.le]

end Sys2Proof.Laws
end

section
/-! PROOFS. The statements of 70_reset_and_hazards.md on reset: it wins over a command, and what it leaves. -/

namespace Sys2Proof.Laws

open Sys2Proof.Machine

/-! ## The reset cycle

Reset is decided before `cmd_valid` and `cmd` are looked at, and keeps nothing of the state but the samples to come
(70_reset_and_hazards.md R160). -/

theorem clockEdge_of_rst {p : PortIn} (reset : p.rst = true) (s : State) :
    clockEdge p s = .next s.resetCycle := by
  simp [clockEdge, reset]

theorem resetCycle_eq_reset_withInputs (s : State) : s.resetCycle = State.reset.withInputs s.inputs := rfl

/-- After one edge with `rst = 1` the block is the block after reset, with the remaining samples to come. -/
theorem step_withInputs_of_rst {p : PortIn} (reset : p.rst = true) (s : State) (rest : List PortIn) :
    step (s.withInputs (p :: rest)) = .next (State.reset.withInputs rest) := by
  rw [step_of_cons (withInputs_inputs s (p :: rest)), clockEdge_of_rst reset, resetCycle_eq_reset_withInputs]

theorem after_one (s : State) : s.after 1 = step s := by
  obtain ⟨t, stepped⟩ := step_completes s
  rw [after_succ_of_next 0 stepped, after_zero, stepped]

/-! ## The register after reset

A cleared snapshot is valid by construction: slot and checksum are both 0 (70_reset_and_hazards.md R161). -/

theorem reset_packed : State.reset.snap.packed = 0#24 := by decide

theorem reset_storedCsum : State.reset.snap.storedCsum = 0#4 := by decide

theorem reset_csum : State.reset.snap.csum = 0#4 := by decide

theorem reset_isValid : State.reset.snap.isValid = true :=
  (isValid_iff _).mpr (reset_storedCsum.trans reset_csum.symm)

/-! ## What the checksum commands answer -/

section Checksum

variable {s : State}

theorem exec_csum_of_csum {c : BitVec 4} (sum : s.snap.csum = c) :
    exec .csum s = .next (s.answerRead (c.setWidth 24)) :=
  sum ▸ rfl

theorem exec_valid_of_isValid (valid : s.snap.isValid = true) : exec .valid s = .next (s.answerRead 1#24) :=
  congrArg (fun d => Host.Outcome.next (s.answerRead d)) (if_pos valid)

end Checksum

/-- SER answers what RAW does, the register being valid; the other three read fields and nibbles that are all 0. -/
theorem exec_data_reader_of_reset {i : Instr} (reader : i ∈ [Instr.raw, .ser, .getpos, .getvel, .csum]) :
    exec i State.reset = .next (State.reset.answerRead 0#24) := by
  have raw : exec .raw State.reset = .next (State.reset.answerRead 0#24) := exec_raw_of_snap rfl reset_packed
  simp only [List.mem_cons, List.not_mem_nil, or_false] at reader
  rcases reader with rfl | rfl | rfl | rfl | rfl
  · exact raw
  · exact ((exec_raw_eq_exec_ser_iff State.reset).mpr reset_isValid).symm.trans raw
  · exact exec_getpos_of_snap reset_snap (by decide)
  · exact exec_getvel_of_snap reset_snap (by decide)
  · exact exec_csum_of_csum reset_csum

/-! ## The statements -/

/-- Settles O14: the edge leaves the block after reset, whose next step runs the command presented to it. -/
theorem resetWinsOverACommand : Obligations.ResetWinsOverACommand := by
  refine ⟨fun s v w rest =>
    ⟨State.reset.withInputs rest, step_withInputs_of_rst rfl s rest, reset_packed, rfl, rfl, rfl⟩,
    fun s v w u i legal => ?_⟩
  calc (s.withInputs [⟨true, v, w⟩, PortIn.command u]).after 2
      = (State.reset.present u).after 1 := after_succ_of_next 1 (step_withInputs_of_rst rfl s [PortIn.command u])
    _ = step (State.reset.present u) := after_one _
    _ = exec i State.reset := step_present_of_cmd legal State.reset

/-- Settles O15: CLR and the reset cycle write the same zeros, and each reader answers the part of them it reads. -/
theorem resetLeavesAValidZeroSnapshot : Obligations.ResetLeavesAValidZeroSnapshot := by
  refine ⟨fun s => ⟨(resetCycle_snap s).trans reset_snap.symm, ?_⟩, by decide, by decide, by decide, by decide,
    reset_storedCsum, reset_csum, reset_isValid, fun i => exec_data_reader_of_reset,
    exec_valid_of_isValid reset_isValid⟩
  rw [reset_snap]
  rfl

end Sys2Proof.Laws
end

section
/-! PROOFS. The statements of 30_encoding.md on the opcode map, on the assembler, and that decoder and encoder undo each
other. -/

namespace Sys2Proof.Laws

open Sys2Proof.Machine

/-! ## The words of the encoder, as four bytes

Each command's word is its row's header byte above its operand bytes (30_encoding.md R65, R72). -/

theorem encode_setpos (a b c : Nat) :
    encode (.setpos a b c) = 0x20#8 ++ BitVec.ofNat 8 c ++ BitVec.ofNat 8 b ++ BitVec.ofNat 8 a :=
  header_or_lanes 0x20#8 _ _ _

theorem encode_setvel (v : Int) : encode (.setvel v) = 0x30#8 ++ 0#8 ++ 0#8 ++ BitVec.ofInt 8 v :=
  header_or_lanes 0x30#8 _ _ _

theorem four_bytes_toNat (header p2 p1 p0 : Byte) : (header ++ p2 ++ p1 ++ p0).toNat =
    header.toNat * 16777216 + p2.toNat * 65536 + p1.toNat * 256 + p0.toNat := by
  have payload : (p2 ++ p1 ++ p0).toNat = p0.toNat + 256 * p1.toNat + 65536 * p2.toNat := by
    rw [← data3_eq_append, data3_toNat]
  rw [four_bytes_eq_header_payload, BitVec.toNat_append, ← Nat.shiftLeft_add_eq_or_of_lt (p2 ++ p1 ++ p0).isLt, payload,
    Nat.shiftLeft_eq]
  omega

/-! ## Decoding what was encoded -/

theorem setpos_wellFormed_iff (a b c : Nat) :
    (Instr.setpos a b c).wellFormed = true ↔ a ≤ 255 ∧ b ≤ 255 ∧ c ≤ 255 := by
  rw [Instr.wellFormed, Bool.and_eq_true, Bool.and_eq_true, unsignedFits_iff, unsignedFits_iff, unsignedFits_iff,
    and_assoc]

theorem setvel_wellFormed_iff (v : Int) : (Instr.setvel v).wellFormed = true ↔ -128 ≤ v ∧ v ≤ 127 := signedFits_iff v

/-- An operand that fits its byte is read back from it. -/
theorem ofNat_toNat_of_le {a : Nat} (fits : a ≤ 255) : (BitVec.ofNat 8 a).toNat = a := by
  rw [BitVec.toNat_ofNat]
  omega

theorem decode_encode {i : Instr} (fits : i.wellFormed = true) : decode (encode i) = .cmd i := by
  cases i with
  | setpos a b c =>
    obtain ⟨fits_a, fits_b, fits_c⟩ := (setpos_wellFormed_iff a b c).mp fits
    rw [encode_setpos, decode_setpos_bytes, ofNat_toNat_of_le fits_a, ofNat_toNat_of_le fits_b,
      ofNat_toNat_of_le fits_c]
  | setvel v =>
    obtain ⟨low, high⟩ := (setvel_wellFormed_iff v).mp fits
    rw [encode_setvel, decode_setvel_bytes, BitVec.toInt_ofInt_eq_self (by decide) (by omega) (by omega)]
  | deser x y z => rw [encode_deser_bytes, decode_deser_bytes]
  | clr | csum | valid | ser | raw | getpos | getvel => decide

/-! ## Encoding what was decoded -/

/-- A row that ignores its payload keeps the opcode and the reserved field alone. -/
theorem and_not_whole_payload {w : CmdWord} (legal : cmdRsvd w = 0#4) :
    w &&& ~~~0x00FFFFFF#32 = cmdOp w ++ 0#4 ++ 0#24 := by
  calc w &&& ~~~0x00FFFFFF#32
      = (cmdOp w ++ 0#4 ++ cmdPayload w) &&& (BitVec.allOnes 8 ++ 0#24) := by rw [← legal, word_eq_fields]; rfl
    _ = cmdOp w ++ 0#4 ++ 0#24 := by rw [BitVec.and_append, BitVec.and_allOnes, BitVec.and_zero]

theorem bytes_eq_cmdPayload (w : CmdWord) : cmdP2 w ++ cmdP1 w ++ cmdP0 w = cmdPayload w := by
  have upper : cmdP2 w ++ cmdP1 w = w.extractLsb' 8 16 := BitVec.extractLsb'_append_extractLsb'_eq_extractLsb' rfl
  rw [upper]
  exact BitVec.extractLsb'_append_extractLsb'_eq_extractLsb' rfl

theorem word_eq_header_bytes {w : CmdWord} (legal : cmdRsvd w = 0#4) :
    w = cmdOp w ++ 0#4 ++ cmdP2 w ++ cmdP1 w ++ cmdP0 w := by
  rw [four_bytes_eq_header_payload, bytes_eq_cmdPayload, ← legal, word_eq_fields]

/-- SETVEL keeps the low byte beside them. -/
theorem and_not_upper_payload {w : CmdWord} (legal : cmdRsvd w = 0#4) :
    w &&& ~~~0x00FFFF00#32 = cmdOp w ++ 0#4 ++ 0#8 ++ 0#8 ++ cmdP0 w := by
  calc w &&& ~~~0x00FFFF00#32
      = (cmdOp w ++ 0#4 ++ cmdP2 w ++ cmdP1 w ++ cmdP0 w) &&&
          (BitVec.allOnes 8 ++ 0#8 ++ 0#8 ++ BitVec.allOnes 8) := by rw [← word_eq_header_bytes legal]; rfl
    _ = cmdOp w ++ 0#4 ++ 0#8 ++ 0#8 ++ cmdP0 w := by
        simp only [BitVec.and_append, BitVec.and_allOnes, BitVec.and_zero]

/-- The operands that a word carries are those of a command that a word can carry. -/
theorem decodeOp_wellFormed {op : Nat} {w : CmdWord} {i : Instr} (h : decodeOp op w = .cmd i) :
    i.wellFormed = true := by
  have byte (u : Byte) : u.toNat ≤ 255 := Nat.le_of_lt_succ u.isLt
  unfold decodeOp at h
  split at h
  case h_2 => cases h; exact (setpos_wellFormed_iff ..).mpr ⟨byte _, byte _, byte _⟩
  case h_3 =>
    cases h
    rw [setvel_wellFormed_iff, sval8_eq_toInt]
    exact ⟨(cmdP0 w).le_toInt, (cmdP0 w).toInt_le⟩
  case h_11 => cases h
  all_goals cases h; rfl

/-- An opcode's command is encoded as that opcode, zeros in the reserved field, and the operand bits of the word. -/
theorem encode_of_decodeOp {op : Nat} {w : CmdWord} {i : Instr} (legal : cmdRsvd w = 0#4)
    (opcode : cmdOp w = BitVec.ofNat 4 op) (h : decodeOp op w = .cmd i) : encode i = w &&& ~~~i.ignoredMask := by
  have whole_word : BitVec.ofNat 4 op ++ 0#4 ++ cmdP2 w ++ cmdP1 w ++ cmdP0 w = w &&& ~~~0#32 := by
    rw [← opcode, ← word_eq_header_bytes legal]
    exact BitVec.and_allOnes.symm
  unfold decodeOp at h
  split at h
  case h_2 => cases h; exact (encode_setpos_bytes ..).trans whole_word
  case h_3 =>
    cases h
    rw [sval8_eq_toInt, encode_setvel, BitVec.ofInt_toInt, Instr.ignoredMask, and_not_upper_payload legal, opcode]
    rfl
  case h_7 => cases h; exact (encode_deser_bytes ..).trans whole_word
  case h_11 => cases h
  all_goals
    cases h
    rw [Instr.ignoredMask, and_not_whole_payload legal, opcode]
    decide

theorem decode_eq_cmd_iff (w : CmdWord) (i : Instr) :
    decode w = .cmd i ↔ cmdRsvd w = 0#4 ∧ decodeOp (cmdOp w).toNat w = .cmd i := by
  by_cases legal : cmdRsvd w = 0#4
  · simp [decode_of_rsvd_zero legal, legal]
  · simp [decode_of_rsvd_ne legal, legal]

theorem and_not_of_and_eq_zero {n : Nat} {w m : BitVec n} (outside : w &&& m = 0#n) : w &&& ~~~m = w := by
  calc w &&& ~~~m = (w &&& m) ||| (w &&& ~~~m) := by rw [outside, BitVec.zero_or]
    _ = w := by rw [← BitVec.and_or_distrib_left, BitVec.or_not_self, BitVec.and_allOnes]

/-! ## The assembler, by number -/

theorem assemble_toNat (i : Instr) :
    (assemble i).map BitVec.toNat = if i.wellFormed then some (encode i).toNat else none := by
  rw [assemble]
  split <;> rfl

/-! ## The statements -/

/-- Settles O1: each command's word is its row's header and its operand bytes, which the decoder reads back. -/
theorem decodeOfEncodeIsTheCommand : Obligations.DecodeOfEncodeIsTheCommand := fun _ => decode_encode

/-- Settles O2: the word that the encoder writes for a decoded command is the word with its ignored bits cleared. -/
theorem encodeOfDecodeIsTheWord : Obligations.EncodeOfDecodeIsTheWord := by
  intro w i h
  obtain ⟨legal, row⟩ := (decode_eq_cmd_iff w i).mp h
  have opcode : cmdOp w = BitVec.ofNat 4 (cmdOp w).toNat := by rw [BitVec.ofNat_toNat, BitVec.setWidth_eq]
  exact ⟨decodeOp_wellFormed row,
    fun clear => (encode_of_decodeOp legal opcode row).trans (and_not_of_and_eq_zero clear)⟩

/-- Settles O3: a row without operands decodes by its opcode alone, the others by their four bytes. -/
theorem opcodeMapRowByRow : Obligations.OpcodeMapRowByRow := fun p2 p1 p0 =>
  ⟨decode_four_bytes p2 p1 p0 0x1#4, decode_setpos_bytes p2 p1 p0, decode_setvel_bytes p2 p1 p0,
    decode_four_bytes p2 p1 p0 0x4#4, decode_four_bytes p2 p1 p0 0x5#4, decode_four_bytes p2 p1 p0 0x6#4,
    decode_deser_bytes p2 p1 p0, decode_four_bytes p2 p1 p0 0x8#4, decode_four_bytes p2 p1 p0 0x9#4,
    decode_four_bytes p2 p1 p0 0xA#4⟩

/-- Settles O6: the words by their four bytes, the errors by the ranges that a byte can carry. -/
theorem assemblerWordsAsNumbers : Obligations.AssemblerWordsAsNumbers := by
  refine ⟨fun a b c => ?_, fun v => ?_, fun a b c => ?_, by decide, by decide, by decide, by decide, by decide,
    by decide, by decide⟩
  · rw [assemble_toNat, encode_setpos, four_bytes_toNat]
    by_cases fits : (Instr.setpos a b c).wellFormed = true
    · obtain ⟨fits_a, fits_b, fits_c⟩ := (setpos_wellFormed_iff a b c).mp fits
      rw [if_pos fits, if_neg (by omega), ofNat_toNat_of_le fits_a, ofNat_toNat_of_le fits_b, ofNat_toNat_of_le fits_c]
      rfl
    · rw [if_neg fits, if_pos]
      rw [setpos_wellFormed_iff] at fits
      omega
  · rw [assemble_toNat, encode_setvel, four_bytes_toNat, BitVec.toNat_ofInt]
    by_cases fits : (Instr.setvel v).wellFormed = true
    · obtain ⟨low, high⟩ := (setvel_wellFormed_iff v).mp fits
      rw [if_pos fits, if_neg (by omega)]
      rfl
    · rw [if_neg fits, if_pos]
      rw [setvel_wellFormed_iff] at fits
      omega
  · rw [assemble_toNat, encode_deser_bytes, four_bytes_toNat]
    rfl

/-- Settles O7: closed facts, each a row of the map at one payload. -/
theorem writtenOutWordsDecode : Obligations.WrittenOutWordsDecode :=
  ⟨by decide, by decide, by decide, by decide, by decide, by decide, by decide, by decide, by decide⟩

end Sys2Proof.Laws
end

section
/-! PROOFS. What one cycle does to the register and to the response, and the invariants that every cycle keeps. -/

namespace Sys2Proof.Laws

open Sys2Proof.Machine

/-! ## What a sample executes -/

section Executes

variable {p : PortIn}

/-- A presented word executes what it decodes to, an illegal one nothing (30_encoding.md R60, R68). -/
theorem executes_of_command (running : p.rst = false) (presented : p.cmdValid = true) :
    p.executes = (decode p.cmd).instr? := by
  simp [PortIn.executes, running, presented]

/-- A reading command leaves the register. -/
theorem exec_reader_snap {i : Instr} (reads : i.isWriter = false) {s t : State} (executed : exec i s = .next t) :
    t.snap = s.snap := by
  obtain ⟨d, answered⟩ := exec_reader reads s
  cases answered.symm.trans executed
  rfl

theorem exec_inputs {i : Instr} {s t : State} (executed : exec i s = .next t) : t.inputs = s.inputs := by
  rcases exec_cases i s with ⟨_, _, answered⟩ | ⟨_, _, written⟩
  · cases answered.symm.trans executed
    rfl
  · cases written.symm.trans executed
    rfl

theorem clockEdge_inputs {s t : State} (edge : clockEdge p s = .next t) : t.inputs = s.inputs := by
  rcases clockEdge_cases p s with ⟨_, reset⟩ | ⟨_, _, i, _, executed⟩ | ⟨_, _, _, illegal⟩ | ⟨_, _, idle⟩
  · cases reset.symm.trans edge
    rfl
  · exact exec_inputs (executed.symm.trans edge)
  · cases illegal.symm.trans edge
    rfl
  · cases idle.symm.trans edge
    rfl

/-- All that can happen to the register at a clock edge: it is zeroed by a reset, a command that the ports show is
executed on it, or nothing is executed and it stays. -/
theorem clockEdge_register_cases {s t : State} (edge : clockEdge p s = .next t) :
    (p.rst = true ∧ t.snap = ⟨0#8, 0#8, 0#8⟩) ∨ (∃ i, p.executes = some i ∧ exec i s = .next t) ∨
      t.snap = s.snap := by
  rcases clockEdge_cases p s with ⟨rst, reset⟩ | ⟨running, presented, i, legal, executed⟩ | ⟨_, _, _, illegal⟩ |
    ⟨_, _, idle⟩
  · cases reset.symm.trans edge
    exact .inl ⟨rst, resetCycle_snap s⟩
  · refine .inr (.inl ⟨i, ?_, executed.symm.trans edge⟩)
    rw [executes_of_command running presented, legal]
    rfl
  · cases illegal.symm.trans edge
    exact .inr (.inr rfl)
  · cases idle.symm.trans edge
    exact .inr (.inr rfl)

/-- A property of the register that every command under `allowed` keeps outlasts a cycle that executes nothing else,
and a reset if the zero register has it. -/
theorem clockEdge_keeps {P : Snapshot → Prop} {allowed : Instr → Bool}
    (kept : ∀ i (s t : State), allowed i = true → exec i s = .next t → P s.snap → P t.snap)
    (at_reset : p.rst = true → P ⟨0#8, 0#8, 0#8⟩) (executes : p.executes.all allowed = true) {s t : State}
    (edge : clockEdge p s = .next t) (holds : P s.snap) : P t.snap := by
  rcases clockEdge_register_cases edge with ⟨rst, zero⟩ | ⟨i, command, executed⟩ | same
  · rw [zero]
    exact at_reset rst
  · rw [command] at executes
    exact kept i s t executes executed holds
  · rw [same]
    exact holds

end Executes

/-! ## One step -/

/-- A step is a clock edge with the oldest sample, which is then gone, or with idle ports. -/
theorem step_next_cases {s t : State} (stepped : step s = .next t) :
    (s.inputs = [] ∧ t = s.idleCycle) ∨
    ∃ p rest, s.inputs = p :: rest ∧ clockEdge p (s.withInputs rest) = .next t := by
  cases coming : s.inputs with
  | nil => exact .inl ⟨rfl, (Host.Outcome.next.inj ((step_of_nil coming).symm.trans stepped)).symm⟩
  | cons p rest => exact .inr ⟨p, rest, rfl, (step_of_cons coming).symm.trans stepped⟩

/-- The two register invariants in one: the register has the property, and all samples to come execute only commands
that keep it. -/
theorem step_keeps {P : Snapshot → Prop} {allowed : Instr → Bool}
    (kept : ∀ i (s t : State), allowed i = true → exec i s = .next t → P s.snap → P t.snap)
    (zero : P ⟨0#8, 0#8, 0#8⟩) {s t : State} (stepped : step s = .next t)
    (holds : P s.snap ∧ ∀ p ∈ s.inputs, p.executes.all allowed = true) :
    P t.snap ∧ ∀ p ∈ t.inputs, p.executes.all allowed = true := by
  obtain ⟨register, coming⟩ := holds
  rcases step_next_cases stepped with ⟨_, rfl⟩ | ⟨p, rest, inputs, edge⟩
  · exact ⟨register, coming⟩
  · rw [inputs, List.forall_mem_cons] at coming
    obtain ⟨now, later⟩ := coming
    rw [clockEdge_inputs edge]
    exact ⟨clockEdge_keeps kept (fun _ => zero) now edge register, later⟩

/-- Only the setters and DESER can leave a register invalid (40_setters.md R87; 42_transfer.md R102). -/
theorem exec_keeps_valid {i : Instr} {s t : State} (allowed : i.keepsValid = true) (executed : exec i s = .next t)
    (valid : s.snap.isValid = true) : t.snap.isValid = true := by
  cases i with
  | clr => cases executed; exact reset_isValid
  | deser x y z => cases executed; exact allowed
  | setpos a b c => cases allowed
  | setvel v => cases allowed
  | csum | valid | ser | raw | getpos | getvel => rw [exec_reader_snap rfl executed]; exact valid

/-- A response is either OK or carries data 0. -/
theorem clockEdge_rspLegal {p : PortIn} {s t : State} (edge : clockEdge p s = .next t) : t.rspLegal := by
  intro r shown is_illegal
  rcases clockEdge_cases p s with ⟨_, reset⟩ | ⟨_, _, i, _, executed⟩ | ⟨_, _, _, illegal⟩ | ⟨_, _, idle⟩
  · cases reset.symm.trans edge
    cases shown
  · obtain ⟨u, completed, d, ok⟩ := exec_answers_ok i s
    cases completed.symm.trans (executed.symm.trans edge)
    cases ok.symm.trans shown
    cases is_illegal
  · cases illegal.symm.trans edge
    cases shown
    rfl
  · cases idle.symm.trans edge
    cases shown

theorem clockEdge_rspValid {p : PortIn} {s t : State} (edge : clockEdge p s = .next t) :
    t.rspValid = (p.cmdValid && !p.rst) := by
  rcases clockEdge_cases p s with ⟨rst, reset⟩ | ⟨running, presented, i, _, executed⟩ |
    ⟨running, presented, _, illegal⟩ | ⟨running, silent, idle⟩
  · cases reset.symm.trans edge
    simp [State.rspValid, rst]
  · obtain ⟨u, completed, d, ok⟩ := exec_answers_ok i s
    cases completed.symm.trans (executed.symm.trans edge)
    simp [State.rspValid, ok, running, presented]
  · cases illegal.symm.trans edge
    simp [State.rspValid, running, presented]
  · cases idle.symm.trans edge
    simp [State.rspValid, silent]

/-! ## Feeding samples

A run on a list of samples taken apart: nothing, one sample and the rest, and one list after another. -/

section Feeds

variable {s t u : State}

theorem feeds_nil_iff : s.feeds [] t ↔ t = s.withInputs [] :=
  ⟨fun ran => (Host.Outcome.next.inj ran).symm, fun same => congrArg Host.Outcome.next same.symm⟩

theorem clockEdge_withInputs_of_next {p : PortIn} (edge : clockEdge p s = .next t) (qs : List PortIn) :
    clockEdge p (s.withInputs qs) = .next (t.withInputs qs) := by
  obtain ⟨v, any⟩ := clockEdge_withInputs p s
  cases (any s.inputs).symm.trans edge
  exact any qs

theorem feeds_cons_iff {p : PortIn} {ps : List PortIn} (edge : clockEdge p s = .next t) :
    s.feeds (p :: ps) u ↔ t.feeds ps u := by
  have stepped : step (s.withInputs (p :: ps)) = .next (t.withInputs ps) :=
    (step_of_cons (withInputs_inputs s (p :: ps))).trans (clockEdge_withInputs_of_next edge ps)
  rw [State.feeds, List.length_cons, after_succ_of_next ps.length stepped, State.feeds]

theorem feeds_singleton {p : PortIn} (edge : clockEdge p s = .next t) : s.feeds [p] (t.withInputs []) :=
  (feeds_cons_iff edge).mpr (feeds_nil_iff.mpr rfl)

theorem feeds_completes (s : State) (ps : List PortIn) : ∃ t, s.feeds ps t := after_completes _ _

theorem feeds_unique {ps : List PortIn} (ran : s.feeds ps t) (ran' : s.feeds ps u) : u = t :=
  Host.Outcome.next.inj (ran'.symm.trans ran)

/-- A longer run goes on from where the shorter one ended (20_memory.md R49). -/
theorem feeds_append_iff {ps qs : List PortIn} (ran : s.feeds ps t) : s.feeds (ps ++ qs) u ↔ t.feeds qs u := by
  induction ps generalizing s with
  | nil => rw [feeds_nil_iff.mp ran]; rfl
  | cons p ps ih =>
    obtain ⟨v, edge⟩ := clockEdge_completes p s
    rw [List.cons_append, feeds_cons_iff edge]
    exact ih ((feeds_cons_iff edge).mp ran)

theorem feeds_inputs {ps : List PortIn} (ran : s.feeds ps t) : t.inputs = [] := by
  induction ps generalizing s with
  | nil => rw [feeds_nil_iff.mp ran]; rfl
  | cons p ps ih =>
    obtain ⟨v, edge⟩ := clockEdge_completes p s
    exact ih ((feeds_cons_iff edge).mp ran)

theorem clockEdge_command_of_cmd {w : CmdWord} {i : Instr} (legal : decode w = .cmd i) (s : State) :
    clockEdge (PortIn.command w) s = exec i s := by
  rw [← step_present, step_present_of_cmd legal]

end Feeds

/-! ## The statements -/

/-- Settles O52: only DESER puts a stored checksum into a register whose slot is 0, and a reset leaves the slot 0. -/
theorem stepKeepsTheSlotZeroWithoutDeser : Obligations.StepKeepsTheSlotZeroWithoutDeser := fun _ _ holds stepped =>
  step_keeps (P := fun x => x.storedCsum = 0#4) (allowed := fun i => !i.isDeser)
    (fun _ _ _ allowed executed => exec_keeps_slot_zero executed (by simpa using allowed)) (by decide) stepped holds

/-- Settles O53: the commands to come keep a valid register valid, and so does a reset. -/
theorem stepKeepsValidityWithoutSetters : Obligations.StepKeepsValidityWithoutSetters := fun _ _ holds stepped =>
  step_keeps (P := fun x => x.isValid = true) (allowed := Instr.keepsValid)
    (fun _ _ _ => exec_keeps_valid) (by decide) stepped holds

/-- Settles O54, by the four things that a clock edge can do; without a sample the ports are idle. -/
theorem stepKeepsIllegalResponsesEmpty : Obligations.StepKeepsIllegalResponsesEmpty := fun _ _ _ => clockEdge_rspLegal

/-- Settles O17: what changes the register is a reset or an executed command, and that command does not only read. -/
theorem onlyWritersAndResetChangeTheRegister : Obligations.OnlyWritersAndResetChangeTheRegister := by
  intro s t p rest inputs stepped changed
  have edge : clockEdge p (s.withInputs rest) = .next t := (step_of_cons inputs).symm.trans stepped
  rcases clockEdge_register_cases edge with ⟨rst, _⟩ | ⟨i, command, executed⟩ | same
  · exact .inl rst
  · refine .inr ⟨i, command, ?_⟩
    by_contra reads
    have same := exec_reader_snap (Bool.eq_false_of_not_eq_true reads) executed
    exact changed same
  · exact absurd same changed

/-- Settles O8: each clause is one branch of the clock edge, the last one an idle cycle without a sample. -/
theorem stepRunsTheDecodedCommand : Obligations.StepRunsTheDecodedCommand := by
  refine ⟨fun s w i rest inputs legal => ?_, fun s w rest inputs illegal => ?_, fun s w rest inputs => ?_,
    fun s v w rest inputs => ?_, fun s inputs => step_of_nil inputs⟩
  · rw [step_of_cons inputs, clockEdge_command_of_cmd legal]
  · rw [step_of_cons inputs, ← step_present, step_present_of_illegal illegal]
    rfl
  · rw [step_of_cons inputs]
    rfl
  · rw [step_of_cons inputs, clockEdge_of_rst rfl]
    rfl

/-- Settles O13: a command's cycle answers, legal or not, and the others do not. -/
theorem responseValidExactlyInCommandCycles : Obligations.ResponseValidExactlyInCommandCycles := by
  intro s p rest inputs
  obtain ⟨t, edge⟩ := clockEdge_completes p (s.withInputs rest)
  exact ⟨t, (step_of_cons inputs).trans edge, clockEdge_rspValid edge, clockEdge_inputs edge⟩

/-- Settles O55: at reset nothing is to come and nothing is answered, and the zero register is valid. -/
theorem resetMeetsTheInvariants : Obligations.ResetMeetsTheInvariants :=
  ⟨⟨reset_storedCsum, by simp⟩, ⟨reset_isValid, by simp⟩, fun _ shown => by cases shown⟩

/-- Settles O16: reset, CLR and DESER each write the whole register, so its value at power-up does not matter. -/
theorem anyPowerUpValueCanBeInitialised : Obligations.AnyPowerUpValueCanBeInitialised := by
  intro n
  have clr : decode 0x10000000#32 = .cmd .clr := by decide
  exact ⟨feeds_singleton (clockEdge_of_rst rfl _),
    ⟨_, feeds_singleton (clockEdge_command_of_cmd clr _), reset_snap.symm⟩,
    fun p2 p1 p0 => ⟨_, feeds_singleton (clockEdge_command_of_cmd (decode_deser_bytes p2 p1 p0) _), rfl⟩,
    fun i => exec_completes i _⟩

end Sys2Proof.Laws
end

section
/-! PROOFS. The packed value as the five fields in order, and the closed forms of the setters on it. -/

namespace Sys2Proof.Laws

open Sys2Proof.Machine

/-! ## The fields in the packed value

Each field is a run of bits of the packed value (10_state.md R24). -/

section Runs

variable (x : Snapshot)

theorem packed_extract_xTile : x.packed.extractLsb' 0 6 = x.xTile := by
  apply BitVec.eq_of_getLsbD_eq
  intro k hk
  rw [BitVec.getLsbD_extractLsb', Nat.zero_add, getLsbD_packed, if_pos (by omega), getLsbD_xTile x hk,
    decide_eq_true hk, Bool.true_and]

theorem packed_extract_xSub : x.packed.extractLsb' 6 4 = x.xSub := by
  apply BitVec.eq_of_getLsbD_eq
  intro k hk
  rw [BitVec.getLsbD_extractLsb', decide_eq_true hk, Bool.true_and, getLsbD_packed]
  by_cases low : k < 2
  · rw [if_pos (by omega), getLsbD_xSub_low x low, Nat.add_comm]
  · obtain ⟨j, rfl⟩ := Nat.exists_eq_add_of_le' (Nat.le_of_not_lt low)
    rw [if_neg (by omega), if_pos (by omega), getLsbD_xSub_high x (by omega)]
    congr 1
    omega

theorem packed_extract_yTile : x.packed.extractLsb' 10 5 = x.yTile := by
  apply BitVec.eq_of_getLsbD_eq
  intro k hk
  rw [BitVec.getLsbD_extractLsb', decide_eq_true hk, Bool.true_and, getLsbD_packed, if_neg (by omega),
    if_pos (by omega), getLsbD_yTile x hk]
  congr 1
  omega

theorem packed_extract_velEnc : x.packed.extractLsb' 15 5 = x.velEnc := by
  apply BitVec.eq_of_getLsbD_eq
  intro k hk
  rw [BitVec.getLsbD_extractLsb', decide_eq_true hk, Bool.true_and, getLsbD_packed]
  cases k with
  | zero => exact (getLsbD_velEnc_zero x).symm
  | succ j =>
    rw [if_neg (by omega), if_neg (by omega), getLsbD_velEnc_succ x (by omega)]
    congr 1
    omega

theorem dataBits_eq_fields : x.dataBits = x.velEnc ++ x.yTile ++ x.xSub ++ x.xTile := by
  rw [← packed_extract_velEnc, ← packed_extract_yTile, ← packed_extract_xSub, ← packed_extract_xTile,
    BitVec.extractLsb'_append_extractLsb'_eq_extractLsb' (by decide),
    BitVec.extractLsb'_append_extractLsb'_eq_extractLsb' (by decide),
    BitVec.extractLsb'_append_extractLsb'_eq_extractLsb' (by decide)]
  rfl

end Runs

/-- Five fields in the order of the packed value (30_encoding.md R74). -/
def packFields (slot : BitVec 4) (vel yTile : BitVec 5) (xSub : BitVec 4) (xTile : BitVec 6) : Packed :=
  slot ++ vel ++ yTile ++ xSub ++ xTile

theorem packed_eq_packFields (x : Snapshot) :
    x.packed = packFields x.storedCsum x.velEnc x.yTile x.xSub x.xTile := by
  rw [packFields, ← nib_packed_five, nib, ← packed_extract_velEnc, ← packed_extract_yTile, ← packed_extract_xSub,
    ← packed_extract_xTile, BitVec.extractLsb'_append_extractLsb'_eq_extractLsb' (by decide),
    BitVec.extractLsb'_append_extractLsb'_eq_extractLsb' (by decide),
    BitVec.extractLsb'_append_extractLsb'_eq_extractLsb' (by decide),
    BitVec.extractLsb'_append_extractLsb'_eq_extractLsb' (by decide)]
  exact BitVec.extractLsb'_eq_self.symm

theorem packed_ofPacked (p : Packed) : (Snapshot.ofPacked p).packed = p := by
  calc (Snapshot.ofPacked p).packed
      = p.extractLsb' 8 16 ++ p.extractLsb' 0 8 :=
        congrArg (· ++ p.extractLsb' 0 8) (BitVec.extractLsb'_append_extractLsb'_eq_extractLsb' (by decide))
    _ = p.extractLsb' 0 24 := BitVec.extractLsb'_append_extractLsb'_eq_extractLsb' (by decide)
    _ = p := BitVec.extractLsb'_eq_self

/-! ## Fields under masks and at their places -/

section PackFields

variable (c c' : BitVec 4) (v v' y y' : BitVec 5) (xs xs' : BitVec 4) (xt xt' : BitVec 6)

theorem packFields_or : packFields c v y xs xt ||| packFields c' v' y' xs' xt' =
    packFields (c ||| c') (v ||| v') (y ||| y') (xs ||| xs') (xt ||| xt') := by
  show (c ++ v ++ y ++ xs ++ xt) ||| (c' ++ v' ++ y' ++ xs' ++ xt') = _
  simp only [BitVec.or_append, packFields]

theorem packFields_and : packFields c v y xs xt &&& packFields c' v' y' xs' xt' =
    packFields (c &&& c') (v &&& v') (y &&& y') (xs &&& xs') (xt &&& xt') := by
  show (c ++ v ++ y ++ xs ++ xt) &&& (c' ++ v' ++ y' ++ xs' ++ xt') = _
  simp only [BitVec.and_append, packFields]

theorem getLsbD_packFields (k : Nat) : (packFields c v y xs xt).getLsbD k =
    (if k < 6 then xt.getLsbD k else if k < 10 then xs.getLsbD (k - 6) else if k < 15 then y.getLsbD (k - 10)
      else if k < 20 then v.getLsbD (k - 15) else c.getLsbD (k - 20)) := by
  simp only [packFields, BitVec.getLsbD_append]
  grind

theorem xTile_placed : xt.setWidth 24 = packFields 0#4 0#5 0#5 0#4 xt := BitVec.setWidth_eq_append (by decide)

theorem xSub_placed : xs.setWidth 24 <<< 6 = packFields 0#4 0#5 0#5 xs 0#6 := by
  apply BitVec.eq_of_getLsbD_eq
  intro k hk
  rw [getLsbD_packFields, BitVec.getLsbD_shiftLeft, BitVec.getLsbD_setWidth]
  grind

theorem yTile_placed : y.setWidth 24 <<< 10 = packFields 0#4 0#5 y 0#4 0#6 := by
  apply BitVec.eq_of_getLsbD_eq
  intro k hk
  rw [getLsbD_packFields, BitVec.getLsbD_shiftLeft, BitVec.getLsbD_setWidth]
  grind

theorem velEnc_placed : v.setWidth 24 <<< 15 = packFields 0#4 v 0#5 0#4 0#6 := by
  apply BitVec.eq_of_getLsbD_eq
  intro k hk
  rw [getLsbD_packFields, BitVec.getLsbD_shiftLeft, BitVec.getLsbD_setWidth]
  grind

end PackFields

/-- A register is its five fields (10_state.md R24). -/
theorem snapshot_eq_of_fields {x y : Snapshot} (slot : x.storedCsum = y.storedCsum) (vel : x.velEnc = y.velEnc)
    (yTile : x.yTile = y.yTile) (xSub : x.xSub = y.xSub) (xTile : x.xTile = y.xTile) : x = y :=
  snapshot_eq_of_packed (by rw [packed_eq_packFields, packed_eq_packFields, slot, vel, yTile, xSub, xTile])

/-! ## Operands at the width of a field -/

/-- A number that fits a field of `m` bits is the field's pattern, zero-extended. -/
theorem ofNat_eq_setWidth {m n a : Nat} (fits : a < 2 ^ m) : BitVec.ofNat n a = (BitVec.ofNat m a).setWidth n := by
  apply BitVec.eq_of_toNat_eq
  rw [BitVec.toNat_setWidth, BitVec.toNat_ofNat, BitVec.toNat_ofNat, Nat.mod_eq_of_lt fits]

theorem ofInt_and_low5 (w : Int) : BitVec.ofInt 24 w &&& 0x1F#24 = (BitVec.ofInt 5 w).setWidth 24 := by
  calc BitVec.ofInt 24 w &&& 0x1F#24
      = 0#19 ++ (BitVec.ofInt 24 w).setWidth 5 := BitVec.and_setWidth_allOnes 19 5 _
    _ = (BitVec.ofInt 5 w).setWidth 24 := by
        rw [setWidth_ofInt_of_le (by decide)]
        exact (BitVec.setWidth_eq_append (by decide)).symm

section Setpos

variable (x : Snapshot) (a b c : Nat)

theorem setpos_xTile_toNat : (x.setpos a b c).xTile.toNat = min a 63 := by
  rw [setpos_xTile, BitVec.toNat_ofNat]
  omega

theorem setpos_xSub_toNat : (x.setpos a b c).xSub.toNat = min b 15 := by
  rw [setpos_xSub, BitVec.toNat_ofNat]
  omega

theorem setpos_yTile_toNat : (x.setpos a b c).yTile.toNat = min c 31 := by
  rw [setpos_yTile, BitVec.toNat_ofNat]
  omega

/-- Two fields placed one after the other, the first of them clear of the second's mask: the old bits under neither
mask, and the two values. -/
theorem placeBits_pair (old m n : Byte) {v w : Byte} (clear : v &&& ~~~n = v) :
    placeBits (placeBits old m v) n w = (old &&& (~~~m &&& ~~~n)) ||| v ||| w := by
  rw [placeBits, placeBits, BitVec.and_or_distrib_right, BitVec.and_assoc, clear]

/-- SETPOS replaces byte0 whole (40_setters.md R82). -/
theorem setpos_b0_closed : (x.setpos a b c).b0 =
    ((BitVec.ofNat 8 (min b 15) &&& 0x03#8) <<< 6) ||| BitVec.ofNat 8 (min a 63) := by
  have below : ∀ v : Byte, v.toNat < 64 → v &&& ~~~0xC0#8 = v := by decide
  have clear := below (BitVec.ofNat 8 (min a 63)) (by rw [BitVec.toNat_ofNat]; omega)
  rw [setpos_b0, placeBits_pair _ _ _ clear, show ~~~0x3F#8 &&& ~~~0xC0#8 = 0#8 by decide, BitVec.and_zero,
    BitVec.zero_or, BitVec.or_comm]

/-- Of byte1 it keeps the velocity's bit. -/
theorem setpos_b1_closed : (x.setpos a b c).b1 =
    (x.b1 &&& 0x80#8) ||| (BitVec.ofNat 8 (min c 31) <<< 2) ||| (BitVec.ofNat 8 (min b 15) >>> 2) := by
  have below : ∀ v : Byte, v.toNat < 16 → v >>> 2 &&& ~~~0x7C#8 = v >>> 2 := by decide
  have clear := below (BitVec.ofNat 8 (min b 15)) (by rw [BitVec.toNat_ofNat]; omega)
  rw [setpos_b1, placeBits_pair _ _ _ clear, show ~~~0x03#8 &&& ~~~0x7C#8 = 0x80#8 by decide, BitVec.or_assoc,
    BitVec.or_comm (BitVec.ofNat 8 (min b 15) >>> 2), ← BitVec.or_assoc]

/-- The clamped position as a packed value with all else 0. -/
theorem position_placed :
    (BitVec.ofNat 24 (min c 31) <<< 10) ||| ((BitVec.ofNat 24 (min b 15) <<< 6) ||| BitVec.ofNat 24 (min a 63)) =
      packFields 0#4 0#5 (BitVec.ofNat 5 (min c 31)) (BitVec.ofNat 4 (min b 15)) (BitVec.ofNat 6 (min a 63)) := by
  rw [ofNat_eq_setWidth (m := 5) (show min c 31 < 2 ^ 5 by omega), yTile_placed,
    ofNat_eq_setWidth (m := 4) (show min b 15 < 2 ^ 4 by omega), xSub_placed,
    ofNat_eq_setWidth (m := 6) (show min a 63 < 2 ^ 6 by omega), xTile_placed]
  simp only [packFields_or, BitVec.or_zero, BitVec.zero_or]

theorem setpos_packed : (x.setpos a b c).packed = packedSetpos x.packed a b c := by
  have mask : 0xFF8000#24 = packFields (BitVec.allOnes 4) (BitVec.allOnes 5) 0#5 0#4 0#6 := by decide
  rw [packedSetpos, BitVec.or_assoc, BitVec.or_assoc, position_placed, mask,
    packed_eq_packFields x, packed_eq_packFields (x.setpos a b c), setpos_storedCsum, setpos_velEnc, setpos_yTile,
    setpos_xSub, setpos_xTile]
  simp only [packFields_and, packFields_or, BitVec.and_allOnes, BitVec.and_zero, BitVec.or_zero, BitVec.zero_or]

end Setpos

section Setvel

variable (x : Snapshot) (v : Int)

theorem enc5_clampS5_byte :
    (enc5 (clampS5 v)).setWidth 8 = BitVec.ofInt 8 (max (-16) (min 15 v)) &&& 0x1F#8 := by
  rw [← low5_setWidth_eq_and, setWidth_ofInt_of_le (show 5 ≤ 8 by decide), enc5_clampS5]

/-- The clamped velocity as a packed value with all else 0. -/
theorem velocity_placed : (BitVec.ofInt 24 (max (-16) (min 15 v)) &&& 0x1F#24) <<< 15 =
    packFields 0#4 (enc5 (clampS5 v)) 0#5 0#4 0#6 := by
  rw [ofInt_and_low5, velEnc_placed, enc5_clampS5]

theorem setvel_packed : (x.setvel v).packed = packedSetvel x.packed v := by
  have mask : 0xF07FFF#24 =
      packFields (BitVec.allOnes 4) 0#5 (BitVec.allOnes 5) (BitVec.allOnes 4) (BitVec.allOnes 6) := by decide
  rw [packedSetvel, velocity_placed, mask, packed_eq_packFields x, packed_eq_packFields (x.setvel v),
    setvel_storedCsum, setvel_velEnc, setvel_yTile, setvel_xSub, setvel_xTile]
  simp only [packFields_and, packFields_or, BitVec.and_allOnes, BitVec.and_zero, BitVec.or_zero, BitVec.zero_or]

/-- The low nibble of byte2 after SETVEL is half the 5-bit pattern as a number (40_setters.md R84, the table). -/
theorem setvel_b2_low_toNat : ((x.setvel v).b2 &&& 0x0F#8).toNat = (enc5 (clampS5 v)).toNat / 2 := by
  have width : (enc5 (clampS5 v)).toNat < 2 ^ 5 := (enc5 (clampS5 v)).isLt
  rw [b2_low_nibble, setvel_velEnc, BitVec.toNat_setWidth, BitVec.toNat_ushiftRight, Nat.shiftRight_eq_div_pow]
  omega

end Setvel

/-- The setters own disjoint fields, so their order does not matter (49_laws.md R121). -/
theorem setpos_setvel_comm (x : Snapshot) (a b c : Nat) (v : Int) :
    (x.setvel v).setpos a b c = (x.setpos a b c).setvel v := by
  apply snapshot_eq_of_fields
  · rw [setpos_storedCsum, setvel_storedCsum, setvel_storedCsum, setpos_storedCsum]
  · rw [setpos_velEnc, setvel_velEnc, setvel_velEnc]
  · rw [setpos_yTile, setvel_yTile, setpos_yTile]
  · rw [setpos_xSub, setvel_xSub, setpos_xSub]
  · rw [setpos_xTile, setvel_xTile, setpos_xTile]

theorem setvel_setpos_packed (x : Snapshot) (a b c : Nat) (v : Int) : ((x.setpos a b c).setvel v).packed =
    (x.packed &&& 0xF00000#24) ||| ((BitVec.ofInt 24 (max (-16) (min 15 v)) &&& 0x1F#24) <<< 15)
      ||| (BitVec.ofNat 24 (min c 31) <<< 10) ||| (BitVec.ofNat 24 (min b 15) <<< 6)
      ||| BitVec.ofNat 24 (min a 63) := by
  have mask : 0xF00000#24 = packFields (BitVec.allOnes 4) 0#5 0#5 0#4 0#6 := by decide
  rw [BitVec.or_assoc, BitVec.or_assoc, position_placed, velocity_placed, mask,
    packed_eq_packFields x, packed_eq_packFields ((x.setpos a b c).setvel v), setvel_storedCsum, setpos_storedCsum,
    setvel_velEnc, setvel_yTile, setpos_yTile, setvel_xSub, setpos_xSub, setvel_xTile, setpos_xTile]
  simp only [packFields_and, packFields_or, BitVec.and_allOnes, BitVec.and_zero, BitVec.or_zero, BitVec.zero_or]

/-! ## The statements -/

/-- Settles O19: each field is a run of bits of the packed value, and so is each byte. -/
theorem packedValueIsTheFieldsInOrder : Obligations.PackedValueIsTheFieldsInOrder :=
  ⟨fun s => ⟨packed_eq_packFields s, (congrArg BitVec.toNat (data3_eq_append ..)).symm.trans (data3_toNat ..),
    dataBits_eq_fields s, ofPacked_packed s⟩, packed_ofPacked⟩

/-- Settles O24: the two placed values of each byte, and the fields put back in order. -/
theorem setposClosedForm : Obligations.SetposClosedForm := fun s a b c =>
  ⟨s.answerWrite (s.snap.setpos a b c), rfl, setpos_b0_closed _ a b c, setpos_b1_closed _ a b c, rfl,
    setpos_packed _ a b c, setpos_xTile_toNat _ a b c, setpos_xSub_toNat _ a b c, setpos_yTile_toNat _ a b c,
    setpos_velEnc _ a b c, setpos_storedCsum _ a b c⟩

/-- Settles O26: the pattern placed in the two bytes, the fields put back in order, and its value over two. -/
theorem setvelClosedForm : Obligations.SetvelClosedForm := by
  intro s v
  refine ⟨s.answerWrite (s.snap.setvel v), rfl, rfl, ?_, ?_, setvel_packed _ v,
    (setvel_vel _ v).trans (clampS5_eq_max_min v), setvel_xTile _ v, setvel_xSub _ v, setvel_yTile _ v,
    setvel_storedCsum _ v, fun low high => ?_, fun low high => ?_⟩
  · rw [← enc5_clampS5_byte]
    rfl
  · rw [← enc5_clampS5_byte]
    rfl
  · have pattern := enc5_toNat_eq_ite (w := v) (by omega) high
    rw [answerWrite_snap, setvel_b2_low_toNat, clampS5_of_range (by omega) high]
    rw [if_pos low] at pattern
    omega
  · have pattern := enc5_toNat_eq_ite low (by omega)
    rw [answerWrite_snap, setvel_b2_low_toNat, clampS5_of_range low (by omega)]
    rw [if_neg (by omega)] at pattern
    omega

/-- Settles O29: the clamped operands fix the result, and are read back from its fields. -/
theorem settersAreInjectiveAfterTheClamp : Obligations.SettersAreInjectiveAfterTheClamp := by
  refine ⟨fun s a b c a' b' c' => ⟨fun same => ?_, fun ⟨xt, xs, yt⟩ => ?_⟩,
    fun s v v' => ⟨fun same => ?_, fun clamped => ?_⟩⟩
  · have register : s.snap.setpos a b c = s.snap.setpos a' b' c' := congrArg State.snap (Host.Outcome.next.inj same)
    rw [← setpos_xTile_toNat s.snap a b c, ← setpos_xSub_toNat s.snap a b c, ← setpos_yTile_toNat s.snap a b c,
      register]
    exact ⟨setpos_xTile_toNat .., setpos_xSub_toNat .., setpos_yTile_toNat ..⟩
  · exact exec_setpos_congr (by rw [clampPos_eq_min, clampPos_eq_min, xt, xs, yt]) s
  · have register : s.snap.setvel v = s.snap.setvel v' := congrArg State.snap (Host.Outcome.next.inj same)
    rw [← clampS5_eq_max_min, ← clampS5_eq_max_min, ← setvel_vel s.snap, ← setvel_vel s.snap, register]
  · exact exec_setvel_congr (by rw [clampS5_eq_max_min, clampS5_eq_max_min, clamped]) s

/-- Settles O30: in either order the same five fields, put in the order of the packed value. -/
theorem settersCommute : Obligations.SettersCommute := fun s a b c v =>
  ⟨s.answerWrite ((s.snap.setpos a b c).setvel v), rfl,
    congrArg (fun x => Host.Outcome.next (s.answerWrite x)) (setpos_setvel_comm s.snap a b c v),
    setvel_setpos_packed s.snap a b c v⟩

end Sys2Proof.Laws
end

section
/-! PROOFS. Lists of setters: the last of each kind wins, what they build from reset, and the checksum they leave. -/

namespace Sys2Proof.Laws

open Sys2Proof.Machine

/-! ## The last setter of a list -/

section Last

variable (is : List Instr) (a b c : Nat) (v : Int)

theorem lastPos_cons_setpos : lastPos (.setpos a b c :: is) = (lastPos is).or (some (a, b, c)) := by
  cases last : lastPos is <;> simp [lastPos, last]

theorem lastPos_cons_setvel : lastPos (.setvel v :: is) = lastPos is := by
  cases last : lastPos is <;> simp [lastPos, last]

theorem lastVel_cons_setpos : lastVel (.setpos a b c :: is) = lastVel is := by
  cases last : lastVel is <;> simp [lastVel, last]

theorem lastVel_cons_setvel : lastVel (.setvel v :: is) = (lastVel is).or (some v) := by
  cases last : lastVel is <;> simp [lastVel, last]

end Last

/-- A setter is SETPOS or SETVEL. -/
theorem setter_cases {i : Instr} (setter : (i.isSetpos || i.isSetvel) = true) :
    (∃ a b c, i = .setpos a b c) ∨ ∃ v, i = .setvel v := by
  cases i with
  | setpos a b c => exact .inl ⟨a, b, c, rfl⟩
  | setvel v => exact .inr ⟨v, rfl⟩
  | clr | csum | valid | ser | deser | raw | getpos | getvel => cases setter

/-! ## The register after a list of setters -/

/-- The register with its position replaced, if an operand triple is given. -/
def withPos (x : Snapshot) : Option (Nat × Nat × Nat) → Snapshot
  | some (a, b, c) => x.setpos a b c
  | none => x

/-- The register with its velocity replaced, if an operand is given. -/
def withVel (x : Snapshot) : Option Int → Snapshot
  | some v => x.setvel v
  | none => x

/-- The later position wins. -/
theorem setpos_setpos (x : Snapshot) (a b c a' b' c' : Nat) :
    (x.setpos a b c).setpos a' b' c' = x.setpos a' b' c' := by
  apply snapshot_eq_of_fields
  · rfl
  · rw [setpos_velEnc, setpos_velEnc, setpos_velEnc]
  · rw [setpos_yTile, setpos_yTile]
  · rw [setpos_xSub, setpos_xSub]
  · rw [setpos_xTile, setpos_xTile]

/-- The later velocity wins. -/
theorem setvel_setvel (x : Snapshot) (v v' : Int) : (x.setvel v).setvel v' = x.setvel v' := by
  apply snapshot_eq_of_fields
  · rw [setvel_storedCsum, setvel_storedCsum, setvel_storedCsum]
  · rw [setvel_velEnc, setvel_velEnc]
  · rw [setvel_yTile, setvel_yTile, setvel_yTile]
  · rw [setvel_xSub, setvel_xSub, setvel_xSub]
  · rfl

theorem withPos_setpos (x : Snapshot) (a b c : Nat) (p : Option (Nat × Nat × Nat)) :
    withPos (x.setpos a b c) p = withPos x (p.or (some (a, b, c))) := by
  cases p with
  | none => rfl
  | some q => exact setpos_setpos x a b c ..

theorem withVel_setvel (x : Snapshot) (v : Int) (u : Option Int) :
    withVel (x.setvel v) u = withVel x (u.or (some v)) := by
  cases u with
  | none => rfl
  | some v' => exact setvel_setvel x v v'

theorem withPos_setvel (x : Snapshot) (v : Int) (p : Option (Nat × Nat × Nat)) :
    withPos (x.setvel v) p = (withPos x p).setvel v := by
  cases p with
  | none => rfl
  | some q => exact setpos_setvel_comm x ..

/-- After a list of setters the register has the position of the last SETPOS and the velocity of the last SETVEL
(49_laws.md R122). -/
theorem execAll_setters {is : List Instr} (setters : ∀ i ∈ is, (i.isSetpos || i.isSetvel) = true) (s : State) :
    ∃ t, execAll is s = .next t ∧ t.inputs = s.inputs ∧
      t.snap = withVel (withPos s.snap (lastPos is)) (lastVel is) := by
  induction is generalizing s with
  | nil => exact ⟨s, rfl, rfl, rfl⟩
  | cons i is ih =>
    obtain ⟨setter, rest⟩ := List.forall_mem_cons.mp setters
    rcases setter_cases setter with ⟨a, b, c, rfl⟩ | ⟨v, rfl⟩
    · obtain ⟨t, ran, inputs, register⟩ := ih rest (s.answerWrite (s.snap.setpos a b c))
      refine ⟨t, (execAll_cons_of_next is rfl).trans ran, inputs, ?_⟩
      rw [register, lastPos_cons_setpos, lastVel_cons_setpos, answerWrite_snap, withPos_setpos]
    · obtain ⟨t, ran, inputs, register⟩ := ih rest (s.answerWrite (s.snap.setvel v))
      refine ⟨t, (execAll_cons_of_next is rfl).trans ran, inputs, ?_⟩
      rw [register, lastPos_cons_setvel, lastVel_cons_setvel, answerWrite_snap, withPos_setvel, withVel_setvel]

section With

variable (x : Snapshot) (p : Option (Nat × Nat × Nat)) (u : Option Int)

theorem withVel_xTile : (withVel x u).xTile = x.xTile := by cases u <;> rfl

theorem withVel_xSub : (withVel x u).xSub = x.xSub := by
  cases u with
  | none => rfl
  | some v => exact setvel_xSub x v

theorem withVel_yTile : (withVel x u).yTile = x.yTile := by
  cases u with
  | none => rfl
  | some v => exact setvel_yTile x v

theorem withVel_storedCsum : (withVel x u).storedCsum = x.storedCsum := by
  cases u with
  | none => rfl
  | some v => exact setvel_storedCsum x v

theorem withPos_storedCsum : (withPos x p).storedCsum = x.storedCsum := by cases p <;> rfl

theorem withPos_vel : (withPos x p).vel = x.vel := by
  cases p with
  | none => rfl
  | some q => exact congrArg dec5 (setpos_velEnc x ..)

end With

/-! ## Writing the fields that another register holds -/

section OwnFields

variable (x y : Snapshot)

/-- A field read as a number and written back is the field: it is within the clamp. -/
theorem ofNat_min_toNat {n : Nat} (e : BitVec n) : BitVec.ofNat n (min e.toNat (2 ^ n - 1)) = e := by
  rw [Nat.min_eq_left (Nat.le_sub_one_of_lt e.isLt), BitVec.ofNat_toNat, BitVec.setWidth_eq]

theorem setpos_fields_of : (y.setpos x.xTile.toNat x.xSub.toNat x.yTile.toNat).xTile = x.xTile ∧
    (y.setpos x.xTile.toNat x.xSub.toNat x.yTile.toNat).xSub = x.xSub ∧
    (y.setpos x.xTile.toNat x.xSub.toNat x.yTile.toNat).yTile = x.yTile :=
  ⟨(setpos_xTile ..).trans (ofNat_min_toNat x.xTile), (setpos_xSub ..).trans (ofNat_min_toNat x.xSub),
    (setpos_yTile ..).trans (ofNat_min_toNat x.yTile)⟩

theorem setvel_vel_of : (y.setvel x.vel).velEnc = x.velEnc := by
  obtain ⟨low, high⟩ := vel_range x
  rw [setvel_velEnc, clampS5_of_range low high]
  exact enc5_dec5 x.velEnc

/-- The two setters make any register that has the same slot. -/
theorem setpos_setvel_of_storedCsum {x y : Snapshot} (slot : y.storedCsum = x.storedCsum) :
    (y.setpos x.xTile.toNat x.xSub.toNat x.yTile.toNat).setvel x.vel = x := by
  obtain ⟨xTile, xSub, yTile⟩ := setpos_fields_of x y
  apply snapshot_eq_of_fields
  · rw [setvel_storedCsum, setpos_storedCsum, slot]
  · exact setvel_vel_of x _
  · rw [setvel_yTile, yTile]
  · rw [setvel_xSub, xSub]
  · rw [setvel_xTile, xTile]

theorem own_fields_wellFormed : (Instr.setpos x.xTile.toNat x.xSub.toNat x.yTile.toNat).wellFormed = true ∧
    (Instr.setvel x.vel).wellFormed = true := by
  have xTile : x.xTile.toNat < 2 ^ 6 := x.xTile.isLt
  have xSub : x.xSub.toNat < 2 ^ 4 := x.xSub.isLt
  have yTile : x.yTile.toNat < 2 ^ 5 := x.yTile.isLt
  obtain ⟨low, high⟩ := vel_range x
  rw [setpos_wellFormed_iff, setvel_wellFormed_iff]
  omega

end OwnFields

/-! ## Snapshots with a given slot -/

theorem ofPacked_append_storedCsum (c : BitVec 4) (d : BitVec 20) : (Snapshot.ofPacked (c ++ d)).storedCsum = c := by
  rw [← nib_packed_five, packed_ofPacked]
  exact BitVec.extractLsb'_append_eq_left

theorem ofPacked_append_dataBits (c : BitVec 4) (d : BitVec 20) : (Snapshot.ofPacked (c ++ d)).dataBits = d := by
  rw [Snapshot.dataBits, packed_ofPacked]
  exact BitVec.extractLsb'_append_eq_right

/-- A snapshot whose slot is a function of its data bits is fixed by them, and they are free. -/
def slotEquiv (slot : BitVec 20 → BitVec 4) : { x : Snapshot // x.storedCsum = slot x.dataBits } ≃ BitVec 20 where
  toFun x := x.1.dataBits
  invFun d := ⟨Snapshot.ofPacked (slot d ++ d), by rw [ofPacked_append_storedCsum, ofPacked_append_dataBits]⟩
  left_inv x := Subtype.ext <| snapshot_eq_of_parts
    ((ofPacked_append_storedCsum ..).trans x.2.symm) (ofPacked_append_dataBits ..)
  right_inv d := ofPacked_append_dataBits ..

theorem card_slot (slot : BitVec 20 → BitVec 4) :
    Nat.card { x : Snapshot // x.storedCsum = slot x.dataBits } = 2 ^ 20 := by
  rw [Nat.card_congr ((slotEquiv slot).trans BitVec.equivFin.toEquiv), Nat.card_fin]

/-! ## The checksum after setters -/

/-- What VALID answers, by any condition that the register is valid under (41_checksum.md R92). -/
theorem exec_valid_of_iff {s : State} {valid : Prop} [Decidable valid] (h : s.snap.isValid = true ↔ valid) :
    exec .valid s = .next (s.answerRead (if valid then 1#24 else 0#24)) :=
  congrArg (fun d => Host.Outcome.next (s.answerRead d)) (if_congr h rfl rfl)

/-- With a slot of 0, a register is valid iff its checksum is 0 (40_setters.md R87). -/
theorem isValid_iff_of_slot_zero {x : Snapshot} (zero : x.storedCsum = 0#4) : x.isValid = true ↔ x.csum = 0#4 := by
  rw [isValid_iff, zero, eq_comm]

/-! ## The statements -/

/-- Settles O31: each setter is absorbed by the later ones of its kind and commutes with those of the other. -/
theorem lastSetterOfEachKindWins : Obligations.LastSetterOfEachKindWins := by
  intro is s setters
  obtain ⟨t, ran, inputs, register⟩ := execAll_setters setters s
  refine ⟨t, ran, inputs, ?_, ?_, ?_⟩
  · rw [register, withVel_xTile, withVel_xSub, withVel_yTile]
    cases lastPos is with
    | none => rfl
    | some p =>
      obtain ⟨a, b, c⟩ := p
      simp only [withPos, setpos_xTile_toNat, setpos_xSub_toNat, setpos_yTile_toNat]
  · rw [register]
    cases lastVel is with
    | none => exact withPos_vel ..
    | some v => exact (setvel_vel ..).trans (clampS5_eq_max_min v)
  · rw [register, withVel_storedCsum, withPos_storedCsum]

/-- Settles O32: one setter of each kind makes a given zero-slot register, no list of setters makes another, and the
data bits count them. -/
theorem settersBuildExactlyTheZeroSlotSnapshots : Obligations.SettersBuildExactlyTheZeroSlotSnapshots := by
  refine ⟨fun x => ⟨fun zero => ?_, ?_⟩, card_slot fun _ => 0#4, fun x s => ⟨_, exec_deser s .., rfl⟩⟩
  · obtain ⟨fits_pos, fits_vel⟩ := own_fields_wellFormed x
    refine ⟨[.setpos x.xTile.toNat x.xSub.toNat x.yTile.toNat, .setvel x.vel], _, ?_, rfl,
      setpos_setvel_of_storedCsum (reset_storedCsum.trans zero.symm)⟩
    simp [Instr.isSetpos, Instr.isSetvel, fits_pos, fits_vel]
  · rintro ⟨is, t, setters, ran, rfl⟩
    obtain ⟨u, ran', _, register⟩ := execAll_setters (fun i member => (setters i member).1) State.reset
    cases ran'.symm.trans ran
    rw [register, withVel_storedCsum, withPos_storedCsum, reset_storedCsum]

/-- Settles O39: no setter writes the slot that CLR has zeroed, so VALID compares the checksum with 0. -/
theorem settersLeaveTheChecksumStale : Obligations.SettersLeaveTheChecksumStale := by
  refine ⟨fun is s setters => ?_, fun s => ?_⟩
  · obtain ⟨t, ran, _, register⟩ := execAll_setters setters (s.answerWrite Snapshot.cleared)
    have zero : t.snap.storedCsum = 0#4 := by
      rw [register, withVel_storedCsum, withPos_storedCsum, answerWrite_snap]
      decide
    exact ⟨t, _, (execAll_cons_of_next is rfl).trans ran, zero, exec_valid_of_iff (isValid_iff_of_slot_zero zero), rfl⟩
  · have example_register : (Snapshot.cleared.setpos 10 5 8).setvel (-5) = ⟨0x4A#8, 0xA1#8, 0x0D#8⟩ := by decide
    refine ⟨s.answerWrite ((Snapshot.cleared.setpos 10 5 8).setvel (-5)), _, rfl, example_register, ?_, rfl, ?_⟩
    · rw [answerWrite_snap, example_register]
      decide
    · rw [answerRead_rsp, answerWrite_snap, example_register]
      rfl

end Sys2Proof.Laws
end

section
/-! PROOFS. The statements of 41_checksum.md on the columns of the checksum, on validity as the parity of six nibbles,
and on the errors that it detects. -/

namespace Sys2Proof.Laws

open Sys2Proof.Machine

/-! ## Columns

Bit `j` of a nibble stands in column `j` of the packed value, and XOR acts column by column (41_checksum.md R91). -/

theorem getLsbD_nib (p : Packed) (k : Nat) {j : Nat} (h : j < 4) : (nib p k).getLsbD j = p.getLsbD (4 * k + j) := by
  rw [nib, BitVec.getLsbD_extractLsb', decide_eq_true h, Bool.true_and]

theorem nib_xor (p q : Packed) (k : Nat) : nib (p ^^^ q) k = nib p k ^^^ nib q k := BitVec.extractLsb'_xor

theorem csum_getLsbD (x : Snapshot) {j : Nat} (h : j < 4) : x.csum.getLsbD j =
    (x.packed.getLsbD j ^^ x.packed.getLsbD (j + 4) ^^ x.packed.getLsbD (j + 8) ^^ x.packed.getLsbD (j + 12) ^^
      x.packed.getLsbD (j + 16)) := by
  simp only [csum_eq_nib, BitVec.getLsbD_xor, getLsbD_nib _ _ h, Nat.add_comm j]
  simp

/-- XOR of five pairs is the pair of the XORs. -/
theorem csum_xor (p q : Packed) :
    (Snapshot.ofPacked (p ^^^ q)).csum = (Snapshot.ofPacked p).csum ^^^ (Snapshot.ofPacked q).csum := by
  simp only [csum_eq_nib, packed_ofPacked, nib_xor]
  ac_rfl

/-! ## The XOR of all six nibbles -/

/-- The XOR of the six nibbles: 0 on the valid values alone (41_checksum.md R93). -/
def syndrome (p : Packed) : BitVec 4 := nib p 0 ^^^ nib p 1 ^^^ nib p 2 ^^^ nib p 3 ^^^ nib p 4 ^^^ nib p 5

theorem syndrome_packed (x : Snapshot) : syndrome x.packed = x.csum ^^^ x.storedCsum := by
  rw [syndrome, ← csum_eq_nib, nib_packed_five]

theorem isValid_iff_syndrome (x : Snapshot) : x.isValid = true ↔ syndrome x.packed = 0#4 := by
  rw [isValid_iff, syndrome_packed, BitVec.xor_eq_zero_iff, eq_comm]

theorem ofPacked_isValid_iff (p : Packed) : (Snapshot.ofPacked p).isValid = true ↔ syndrome p = 0#4 := by
  rw [isValid_iff_syndrome, packed_ofPacked]

theorem syndrome_xor (p q : Packed) : syndrome (p ^^^ q) = syndrome p ^^^ syndrome q := by
  simp only [syndrome, nib_xor]
  ac_rfl

/-- An error on a valid value shows its own syndrome (41_checksum.md R94). -/
theorem ofPacked_xor_isValid_iff {p : Packed} (valid : (Snapshot.ofPacked p).isValid = true) (e : Packed) :
    (Snapshot.ofPacked (p ^^^ e)).isValid = true ↔ syndrome e = 0#4 := by
  rw [ofPacked_isValid_iff, syndrome_xor, (ofPacked_isValid_iff p).mp valid, BitVec.zero_xor]

/-- A single bit shows its column. -/
theorem syndrome_twoPow : ∀ i < 24, syndrome (BitVec.twoPow 24 i) = BitVec.twoPow 4 (i % 4) := by decide

theorem twoPow_column_ne_zero : ∀ a < 4, BitVec.twoPow 4 a ≠ 0#4 := by decide

theorem twoPow_column_inj : ∀ a < 4, ∀ b < 4, BitVec.twoPow 4 a = BitVec.twoPow 4 b ↔ a = b := by decide

theorem syndrome_twoPow_ne_zero {i : Nat} (h : i < 24) : syndrome (BitVec.twoPow 24 i) ≠ 0#4 := by
  rw [syndrome_twoPow i h]
  exact twoPow_column_ne_zero _ (Nat.mod_lt i (by decide))

/-- Two bits cancel in one column and in no two. -/
theorem syndrome_two_bits {i j : Nat} (hi : i < 24) (hj : j < 24) :
    syndrome (BitVec.twoPow 24 i ^^^ BitVec.twoPow 24 j) = 0#4 ↔ i % 4 = j % 4 := by
  rw [syndrome_xor, syndrome_twoPow i hi, syndrome_twoPow j hj, BitVec.xor_eq_zero_iff]
  exact twoPow_column_inj _ (Nat.mod_lt i (by decide)) _ (Nat.mod_lt j (by decide))

theorem single_bit_detected {p : Packed} (valid : (Snapshot.ofPacked p).isValid = true) {i : Nat} (h : i < 24) :
    (Snapshot.ofPacked (p ^^^ BitVec.twoPow 24 i)).isValid = false := by
  rw [← Bool.not_eq_true, ofPacked_xor_isValid_iff valid]
  exact syndrome_twoPow_ne_zero h

theorem two_bits_escape_iff {p : Packed} (valid : (Snapshot.ofPacked p).isValid = true) {i j : Nat} (hi : i < 24)
    (hj : j < 24) :
    (Snapshot.ofPacked (p ^^^ BitVec.twoPow 24 i ^^^ BitVec.twoPow 24 j)).isValid = true ↔ i % 4 = j % 4 := by
  rw [BitVec.xor_assoc, ofPacked_xor_isValid_iff valid, syndrome_two_bits hi hj]

/-! ## Counting -/

/-- The checksum as a function of the data bits. -/
def csumOfData (d : BitVec 20) : BitVec 4 := (Snapshot.ofPacked (0#4 ++ d)).csum

theorem csum_eq_csumOfData (x : Snapshot) : x.csum = csumOfData x.dataBits :=
  csum_congr (ofPacked_append_dataBits ..).symm

theorem ofPacked_append_isValid_iff (c : BitVec 4) (d : BitVec 20) :
    (Snapshot.ofPacked (c ++ d)).isValid = true ↔ c = csumOfData d := by
  rw [isValid_iff, csum_eq_csumOfData, ofPacked_append_storedCsum, ofPacked_append_dataBits]

theorem card_valid : Nat.card { x : Snapshot // x.isValid = true } = 2 ^ 20 := by
  simp only [isValid_iff, csum_eq_csumOfData]
  exact card_slot csumOfData

/-- Snapshots and packed values are the same 24 bits (10_state.md R24). -/
def packedEquiv : Snapshot ≃ Packed where
  toFun := Snapshot.packed
  invFun := Snapshot.ofPacked
  left_inv := ofPacked_packed
  right_inv := packed_ofPacked

/-- Among the valid values only 0 is no error. -/
theorem card_escaping_errors :
    Nat.card { e : Packed // e ≠ 0#24 ∧ (Snapshot.ofPacked e).isValid = true } = 2 ^ 20 - 1 := by
  have all : Set.ncard { e : Packed | (Snapshot.ofPacked e).isValid = true } = 2 ^ 20 := by
    rw [← card_valid]
    exact Nat.card_congr (packedEquiv.symm.subtypeEquiv fun _ => Iff.rfl)
  have zero : 0#24 ∈ { e : Packed | (Snapshot.ofPacked e).isValid = true } := by decide
  rw [← all, ← Set.ncard_sdiff_singleton_of_mem zero]
  exact Nat.card_congr (Equiv.subtypeEquivRight fun e => and_comm)

/-- The pairs of a product that pass a test, counted row by row. -/
theorem length_filter_product (l m : List Nat) (test : Nat × Nat → Bool) :
    ((l.product m).filter test).length = (l.map fun i => (m.filter fun j => test (i, j)).length).sum := by
  simp [List.product, List.filter_flatMap, List.length_flatMap, List.filter_map, Function.comp_def]

theorem card_bit_pairs :
    (((List.range 24).product (List.range 24)).filter fun ij => decide (ij.1 < ij.2)).length = 276 := by
  rw [length_filter_product]
  decide

/-- A pair of bits escapes if both stand in one column: six bits to a column, fifteen pairs of them. -/
theorem card_escaping_pairs : (((List.range 24).product (List.range 24)).filter fun ij => decide (ij.1 < ij.2) &&
    (Snapshot.ofPacked (BitVec.twoPow 24 ij.1 ^^^ BitVec.twoPow 24 ij.2)).isValid).length = 60 := by
  have by_column : ∀ ij ∈ (List.range 24).product (List.range 24),
      (decide (ij.1 < ij.2) && (Snapshot.ofPacked (BitVec.twoPow 24 ij.1 ^^^ BitVec.twoPow 24 ij.2)).isValid) =
        (decide (ij.1 < ij.2) && decide (ij.1 % 4 = ij.2 % 4)) := by
    intro ij member
    obtain ⟨hi, hj⟩ := List.mem_product.mp member
    rw [Bool.eq_iff_iff, Bool.and_eq_true, Bool.and_eq_true, ofPacked_isValid_iff, decide_eq_true_iff (p := _ % 4 = _),
      syndrome_two_bits (List.mem_range.mp hi) (List.mem_range.mp hj)]
  rw [List.filter_congr by_column, length_filter_product]
  decide

/-! ## The statements -/

/-- Settles O34: bit by bit, and by rearranging the XOR of ten nibbles. -/
theorem checksumIsColumnParityAndLinear : Obligations.ChecksumIsColumnParityAndLinear :=
  ⟨fun x _ => csum_getLsbD x, csum_xor⟩

/-- Settles O35: the slot is nibble 5 and the checksum is the XOR of the others. -/
theorem validAnswersTheComparison : Obligations.ValidAnswersTheComparison := by
  refine ⟨fun s => ?_, reset_isValid, by decide, by decide⟩
  rw [exec_valid_of_iff (isValid_iff s.snap), ← nib_packed_five, csum_eq_nib]
  rfl

/-- Settles O36: slot and checksum are equal iff their XOR is 0; the checksum of the data bits is the slot that fits. -/
theorem validityIsSixNibbleParity : Obligations.ValidityIsSixNibbleParity :=
  ⟨isValid_iff_syndrome, fun d => ⟨csumOfData d, (ofPacked_append_isValid_iff _ d).mpr rfl,
    fun c => (ofPacked_append_isValid_iff c d).mp⟩, card_valid⟩

/-- Settles O37: the syndrome is linear, a single bit shows its column, and the valid values count the escapes. -/
theorem errorDetectionIsExact : Obligations.ErrorDetectionIsExact :=
  ⟨fun _ e valid => ofPacked_xor_isValid_iff valid e,
    fun _ valid => ⟨fun _ => single_bit_detected valid,
      fun _ _ lt hj => two_bits_escape_iff valid (lt.trans hj) hj⟩,
    card_bit_pairs, card_escaping_pairs, card_escaping_errors⟩

end Sys2Proof.Laws
end

section
/-! PROOFS. The statements of 10_state.md on what each command reads and writes, and the round trips of 49_laws.md. -/

namespace Sys2Proof.Laws

open Sys2Proof.Machine

/-! ## Data bits and fields -/

section Fields

variable {x y : Snapshot}

/-- The four fields beside the slot are the data bits (10_state.md R24). -/
theorem dataBits_eq_of_fields (xTile : x.xTile = y.xTile) (xSub : x.xSub = y.xSub) (yTile : x.yTile = y.yTile)
    (vel : x.velEnc = y.velEnc) : x.dataBits = y.dataBits := by
  rw [dataBits_eq_fields, dataBits_eq_fields, xTile, xSub, yTile, vel]

theorem packed_extract_congr (same_data : x.dataBits = y.dataBits) {start len : Nat} (h : start + len ≤ 20) :
    x.packed.extractLsb' start len = y.packed.extractLsb' start len := by
  have data (z : Snapshot) : z.packed.extractLsb' start len = z.dataBits.extractLsb' start len := by
    rw [Snapshot.dataBits, BitVec.extractLsb'_extractLsb'_of_le h]
  rw [data, data, same_data]

theorem xTile_congr (same_data : x.dataBits = y.dataBits) : x.xTile = y.xTile := by
  rw [← packed_extract_xTile, ← packed_extract_xTile, packed_extract_congr same_data (by decide)]

theorem xSub_congr (same_data : x.dataBits = y.dataBits) : x.xSub = y.xSub := by
  rw [← packed_extract_xSub, ← packed_extract_xSub, packed_extract_congr same_data (by decide)]

theorem yTile_congr (same_data : x.dataBits = y.dataBits) : x.yTile = y.yTile := by
  rw [← packed_extract_yTile, ← packed_extract_yTile, packed_extract_congr same_data (by decide)]

theorem setpos_dataBits_congr (same_data : x.dataBits = y.dataBits) (a b c : Nat) :
    (x.setpos a b c).dataBits = (y.setpos a b c).dataBits := by
  apply dataBits_eq_of_fields
  · rw [setpos_xTile, setpos_xTile]
  · rw [setpos_xSub, setpos_xSub]
  · rw [setpos_yTile, setpos_yTile]
  · rw [setpos_velEnc, setpos_velEnc, velEnc_congr same_data]

theorem setvel_dataBits_congr (same_data : x.dataBits = y.dataBits) (v : Int) :
    (x.setvel v).dataBits = (y.setvel v).dataBits := by
  apply dataBits_eq_of_fields
  · rw [setvel_xTile, setvel_xTile, xTile_congr same_data]
  · rw [setvel_xSub, setvel_xSub, xSub_congr same_data]
  · rw [setvel_yTile, setvel_yTile, yTile_congr same_data]
  · rw [setvel_velEnc, setvel_velEnc]

end Fields

/-! ## Two registers under one command -/

section TwoRegisters

variable {i : Instr} {s₁ s₂ t₁ t₂ : State}

/-- The data bits alone fix the data bits that a command leaves (10_state.md R26). -/
theorem exec_dataBits_congr (run₁ : exec i s₁ = .next t₁) (run₂ : exec i s₂ = .next t₂)
    (same_data : s₁.snap.dataBits = s₂.snap.dataBits) : t₁.snap.dataBits = t₂.snap.dataBits := by
  cases i with
  | setpos a b c => cases run₁; cases run₂; exact setpos_dataBits_congr same_data a b c
  | setvel v => cases run₁; cases run₂; exact setvel_dataBits_congr same_data v
  | clr | deser => cases run₁; cases run₂; rfl
  | csum | valid | ser | raw | getpos | getvel =>
    rw [exec_reader_snap rfl run₁, exec_reader_snap rfl run₂, same_data]

/-- A writing command answers 0, whatever it writes (30_encoding.md R67). -/
theorem exec_writer_rsp (writes : i.isWriter = true) {s t : State} (run : exec i s = .next t) :
    t.rsp = some ⟨.ok, 0#24⟩ := by
  rcases exec_cases i s with ⟨reads, _⟩ | ⟨_, x, written⟩
  · rw [reads] at writes
    cases writes
  · cases written.symm.trans run
    rfl

/-- The data bits alone fix every response but those of VALID and RAW (10_state.md R26). -/
theorem exec_rsp_congr (run₁ : exec i s₁ = .next t₁) (run₂ : exec i s₂ = .next t₂)
    (same_data : s₁.snap.dataBits = s₂.snap.dataBits) (not_valid : i ≠ .valid) (not_raw : i ≠ .raw) :
    t₁.rsp = t₂.rsp := by
  cases i with
  | csum => cases run₁; cases run₂; rw [answerRead_rsp, answerRead_rsp, csum_congr same_data]
  | ser => cases run₁; cases run₂; rw [answerRead_rsp, answerRead_rsp, ser_congr same_data]
  | getpos =>
    cases (exec_getpos s₁).symm.trans run₁
    cases (exec_getpos s₂).symm.trans run₂
    rw [answerRead_rsp, answerRead_rsp, positionData_congr same_data]
  | getvel =>
    cases (exec_getvel s₁).symm.trans run₁
    cases (exec_getvel s₂).symm.trans run₂
    rw [answerRead_rsp, answerRead_rsp, velocityData_congr same_data]
  | valid => exact absurd rfl not_valid
  | raw => exact absurd rfl not_raw
  | clr | setpos | setvel | deser => rw [exec_writer_rsp rfl run₁, exec_writer_rsp rfl run₂]

/-- No command but CLR and DESER writes the slot. -/
theorem exec_storedCsum (partial_write : i.isWholeWrite = false) {s t : State} (run : exec i s = .next t) :
    t.snap.storedCsum = s.snap.storedCsum := by
  cases i with
  | setpos a b c => cases run; exact setpos_storedCsum ..
  | setvel v => cases run; exact setvel_storedCsum ..
  | clr | deser => cases partial_write
  | csum | valid | ser | raw | getpos | getvel => rw [exec_reader_snap rfl run]

/-- A command answers alike on equal registers, whatever is still to come. -/
theorem exec_rsp_of_same_snap (same : s₁.snap = s₂.snap) (run₁ : exec i s₁ = .next t₁)
    (run₂ : exec i s₂ = .next t₂) : t₁.rsp = t₂.rsp := by
  obtain ⟨y, d, fixed⟩ := exec_same_register i s₂.snap
  cases (fixed s₁ same).symm.trans run₁
  cases (fixed s₂ rfl).symm.trans run₂
  rfl

/-- CLR and DESER leave one register whatever they found. -/
theorem exec_wholeWrite_snap (whole : i.isWholeWrite = true) (run₁ : exec i s₁ = .next t₁)
    (run₂ : exec i s₂ = .next t₂) : t₁.snap = t₂.snap := by
  cases i with
  | clr | deser => cases run₁; cases run₂; rfl
  | setpos | setvel | csum | valid | ser | raw | getpos | getvel => cases whole

theorem eq_setpos_of_isSetpos (setpos : i.isSetpos = true) : ∃ a b c, i = .setpos a b c := by
  cases i with
  | setpos a b c => exact ⟨a, b, c, rfl⟩
  | clr | setvel | csum | valid | ser | deser | raw | getpos | getvel => cases setpos

theorem eq_setvel_of_isSetvel (setvel : i.isSetvel = true) : ∃ v, i = .setvel v := by
  cases i with
  | setvel v => exact ⟨v, rfl⟩
  | clr | setpos | csum | valid | ser | deser | raw | getpos | getvel => cases setvel

/-- The row of SETPOS: three fields replaced, two kept. -/
theorem exec_setpos_fields (setpos : i.isSetpos = true) (run₁ : exec i s₁ = .next t₁) (run₂ : exec i s₂ = .next t₂) :
    t₁.snap.xTile = t₂.snap.xTile ∧ t₁.snap.xSub = t₂.snap.xSub ∧ t₁.snap.yTile = t₂.snap.yTile ∧
      t₁.snap.velEnc = s₁.snap.velEnc ∧ t₁.snap.storedCsum = s₁.snap.storedCsum := by
  obtain ⟨a, b, c, rfl⟩ := eq_setpos_of_isSetpos setpos
  cases run₁
  cases run₂
  exact ⟨(setpos_xTile ..).trans (setpos_xTile ..).symm, (setpos_xSub ..).trans (setpos_xSub ..).symm,
    (setpos_yTile ..).trans (setpos_yTile ..).symm, setpos_velEnc .., setpos_storedCsum ..⟩

/-- The row of SETVEL: one field replaced, four kept. -/
theorem exec_setvel_fields (setvel : i.isSetvel = true) (run₁ : exec i s₁ = .next t₁) (run₂ : exec i s₂ = .next t₂) :
    t₁.snap.velEnc = t₂.snap.velEnc ∧ t₁.snap.xTile = s₁.snap.xTile ∧ t₁.snap.xSub = s₁.snap.xSub ∧
      t₁.snap.yTile = s₁.snap.yTile ∧ t₁.snap.storedCsum = s₁.snap.storedCsum := by
  obtain ⟨v, rfl⟩ := eq_setvel_of_isSetvel setvel
  cases run₁
  cases run₂
  exact ⟨(setvel_velEnc ..).trans (setvel_velEnc ..).symm, setvel_xTile .., setvel_xSub .., setvel_yTile ..,
    setvel_storedCsum ..⟩

end TwoRegisters

/-! ## The buffer on the wire -/

/-- DESER of the three bytes of any 24 bits makes them the register. -/
theorem exec_deser_bytes (s : State) (e : Packed) :
    exec (.deser (e.extractLsb' 0 8) (e.extractLsb' 8 8) (e.extractLsb' 16 8)) s =
      .next (s.answerWrite (Snapshot.ofPacked e)) := exec_deser s ..

theorem ofPacked_ser_isValid (x : Snapshot) : (Snapshot.ofPacked x.ser.packed).isValid = true := by
  rw [ofPacked_packed]
  exact ser_isValid x

/-! ## Writing back what was read -/

theorem setpos_own (x : Snapshot) : x.setpos x.xTile.toNat x.xSub.toNat x.yTile.toNat = x := by
  obtain ⟨xTile, xSub, yTile⟩ := setpos_fields_of x x
  exact snapshot_eq_of_fields (setpos_storedCsum ..) (setpos_velEnc ..) yTile xSub xTile

theorem setvel_own (x : Snapshot) : x.setvel x.vel = x :=
  snapshot_eq_of_fields (setvel_storedCsum ..) (setvel_vel_of x x) (setvel_yTile ..) (setvel_xSub ..) (setvel_xTile ..)

/-- The bytes of GETPOS's answer are the position fields as numbers. -/
theorem positionData_bytes_toNat (x : Snapshot) :
    ((positionData x).extractLsb' 0 8).toNat = x.xTile.toNat ∧ ((positionData x).extractLsb' 8 8).toNat = x.xSub.toNat ∧
      ((positionData x).extractLsb' 16 8).toNat = x.yTile.toNat := by
  rw [positionData, data3_extract_zero, data3_extract_one, data3_extract_two]
  exact ⟨BitVec.toNat_setWidth_of_le (by decide), BitVec.toNat_setWidth_of_le (by decide),
    BitVec.toNat_setWidth_of_le (by decide)⟩

/-- The byte of GETVEL's answer, read as SETVEL reads its operand, is the velocity. -/
theorem sval8_velocityData (x : Snapshot) : sval8 ((velocityData x).extractLsb' 0 8) = x.vel := by
  rw [velocityData_low, sval8_eq_toInt, sext8_velEnc_toInt]

/-! ## What outlasts other cycles -/

theorem exec_keeps_position {i : Instr} (allowed : (!i.isSetpos && !i.isWholeWrite) = true) {s t : State}
    (run : exec i s = .next t) : positionData t.snap = positionData s.snap := by
  cases i with
  | setvel v => cases run; rw [answerWrite_snap, positionData, setvel_xTile, setvel_xSub, setvel_yTile, positionData]
  | clr | setpos | deser => cases allowed
  | csum | valid | ser | raw | getpos | getvel => rw [exec_reader_snap rfl run]

theorem exec_keeps_velEnc {i : Instr} (allowed : (!i.isSetvel && !i.isWholeWrite) = true) {s t : State}
    (run : exec i s = .next t) : t.snap.velEnc = s.snap.velEnc := by
  cases i with
  | setpos a b c => cases run; exact setpos_velEnc ..
  | clr | setvel | deser => cases allowed
  | csum | valid | ser | raw | getpos | getvel => rw [exec_reader_snap rfl run]

/-- A property of the register outlasts cycles without reset that execute only commands that keep it. -/
theorem feeds_keeps {P : Snapshot → Prop} {allowed : Instr → Bool}
    (kept : ∀ i (s t : State), allowed i = true → exec i s = .next t → P s.snap → P t.snap) {ps : List PortIn}
    (between : ∀ p ∈ ps, (!p.rst && p.executes.all allowed) = true) {s t : State} (ran : s.feeds ps t)
    (holds : P s.snap) : P t.snap := by
  induction ps generalizing s with
  | nil =>
    rw [feeds_nil_iff.mp ran]
    exact holds
  | cons p ps ih =>
    obtain ⟨now, later⟩ := List.forall_mem_cons.mp between
    obtain ⟨running, executes⟩ := Bool.and_eq_true_iff.mp now
    obtain ⟨u, edge⟩ := clockEdge_completes p s
    have no_reset : p.rst = true → P ⟨0#8, 0#8, 0#8⟩ := fun rst => by
      rw [rst] at running
      cases running
    exact ih later ((feeds_cons_iff edge).mp ran) (clockEdge_keeps kept no_reset executes edge holds)

/-- A setter, cycles that keep what it has set, and an accessor: the accessor runs on a register with that property. -/
theorem feeds_set_keep_get {P : Snapshot → Prop} {allowed : Instr → Bool}
    (kept : ∀ i (s t : State), allowed i = true → exec i s = .next t → P s.snap → P t.snap) {ps : List PortIn}
    (between : ∀ p ∈ ps, (!p.rst && p.executes.all allowed) = true) {setter getter : Instr}
    (fits : setter.wellFormed = true) (getter_fits : getter.wellFormed = true) {s u : State}
    (run : exec setter s = .next u) (stored : P u.snap) :
    ∃ v t, P v.snap ∧ exec getter v = .next t ∧
      s.feeds (PortIn.command (encode setter) :: ps ++ [PortIn.command (encode getter)]) (t.withInputs []) := by
  have first := (clockEdge_command_of_cmd (decode_encode fits) s).trans run
  obtain ⟨v, ran⟩ := feeds_completes u ps
  obtain ⟨t, answered⟩ := exec_completes getter v
  have last := (clockEdge_command_of_cmd (decode_encode getter_fits) v).trans answered
  exact ⟨v, t, feeds_keeps kept between ran stored, answered,
    (feeds_append_iff ((feeds_cons_iff first).mpr ran)).mpr (feeds_singleton last)⟩

theorem sext8_enc5 {w : Int} (low : -16 ≤ w) (high : w ≤ 15) : sext8 (enc5 w) = BitVec.ofInt 8 w := by
  rw [sext8_eq_signExtend, BitVec.signExtend, ← dec5_eq_toInt, dec5_enc5 low high]

/-! ## The statements -/

/-- Settles O38: what a command leaves of the data bits, what it answers and whether it writes the slot, in turn. -/
theorem storedChecksumSteersNothing : Obligations.StoredChecksumSteersNothing := by
  intro i s₁ s₂ same_data
  obtain ⟨t₁, run₁⟩ := exec_completes i s₁
  obtain ⟨t₂, run₂⟩ := exec_completes i s₂
  exact ⟨t₁, t₂, run₁, run₂, exec_dataBits_congr run₁ run₂ same_data, exec_rsp_congr run₁ run₂ same_data,
    fun other => ⟨exec_storedCsum other run₁, exec_storedCsum other run₂⟩⟩

/-- Settles O51: readers by the bits that the fields they read stand in, writers field by field. -/
theorem accessMatrix : Obligations.AccessMatrix := by
  intro s₁ s₂
  have completes (i : Instr) : ∃ t₁ t₂, exec i s₁ = .next t₁ ∧ exec i s₂ = .next t₂ :=
    let ⟨t₁, run₁⟩ := exec_completes i s₁
    let ⟨t₂, run₂⟩ := exec_completes i s₂
    ⟨t₁, t₂, run₁, run₂⟩
  refine ⟨fun i reader xTile xSub yTile vel => ?_, fun xTile xSub yTile => ?_, fun vel => ?_,
    fun i _ xTile xSub yTile vel slot => ?_, fun w illegal => ?_, fun i => ?_⟩
  · obtain ⟨t₁, t₂, run₁, run₂⟩ := completes i
    have other : i ≠ .valid ∧ i ≠ .raw := by
      constructor <;> (rintro rfl; simp at reader)
    exact ⟨t₁, t₂, run₁, run₂,
      exec_rsp_congr run₁ run₂ (dataBits_eq_of_fields xTile xSub yTile vel) other.1 other.2⟩
  · refine ⟨_, _, exec_getpos s₁, exec_getpos s₂, ?_⟩
    rw [answerRead_rsp, answerRead_rsp, positionData, xTile, xSub, yTile, positionData]
  · refine ⟨_, _, exec_getvel s₁, exec_getvel s₂, ?_⟩
    rw [answerRead_rsp, answerRead_rsp, velocityData_of_velEnc vel, velocityData]
  · obtain ⟨t₁, t₂, run₁, run₂⟩ := completes i
    exact ⟨t₁, t₂, run₁, run₂, exec_rsp_of_same_snap (snapshot_eq_of_fields slot vel yTile xSub xTile) run₁ run₂⟩
  · exact ⟨_, _, step_present_of_illegal illegal s₁, step_present_of_illegal illegal s₂, rfl, rfl, rfl⟩
  · obtain ⟨t₁, t₂, run₁, run₂⟩ := completes i
    exact ⟨t₁, t₂, run₁, run₂, fun reads => exec_reader_snap reads run₁,
      fun writes => (exec_writer_rsp writes run₁).trans (exec_writer_rsp writes run₂).symm,
      fun whole => exec_wholeWrite_snap whole run₁ run₂, fun setpos => exec_setpos_fields setpos run₁ run₂,
      fun setvel => exec_setvel_fields setvel run₁ run₂⟩

/-- Settles O43: the buffer has the register's data bits, so all its fields, and their checksum in the slot. -/
theorem serializeRoundTripIsLosslessAndValid : Obligations.SerializeRoundTripIsLosslessAndValid := by
  intro s
  have data := ser_dataBits s.snap
  refine ⟨_, _, _, _, exec_ser s, rfl, rfl, exec_deser_bytes_of_packed _ s.snap.ser, rfl, rfl, ?_, xTile_congr data,
    xSub_congr data, yTile_congr data, congrArg dec5 (velEnc_congr data), ser_storedCsum s.snap, ser_eq_self_iff s.snap,
    exec_valid_of_isValid (ser_isValid s.snap), rfl⟩
  rw [answerWrite_snap, ← low_nibble_setWidth, ← low_nibble_setWidth, ser_b2_low]

/-- Settles O44: the buffer is valid, so the flipped bits alone decide what VALID answers. -/
theorem wireCorruptionIsReportedByValid : Obligations.WireCorruptionIsReportedByValid := by
  intro s
  have valid := ofPacked_ser_isValid s.snap
  refine ⟨_, _, exec_ser s, rfl, fun i hi e flipped => ?_, fun i hi j hj _ e flipped => ?_⟩
  · have detected : (Snapshot.ofPacked e).isValid = true ↔ False := by
      rw [flipped, single_bit_detected valid hi]
      simp
    exact ⟨_, _, exec_deser_bytes _ e, exec_valid_of_iff detected, rfl⟩
  · have escapes : (Snapshot.ofPacked e).isValid = true ↔ i % 4 = j % 4 := by
      rw [flipped]
      exact two_bits_escape_iff valid hi hj
    exact ⟨_, _, exec_deser_bytes _ e, exec_valid_of_iff escapes, rfl⟩

/-- Settles O49: each answer holds the fields that its setter writes, and none of them is clamped. -/
theorem getThenSetChangesNothing : Obligations.GetThenSetChangesNothing := by
  intro s
  refine ⟨⟨_, _, _, exec_getpos s, rfl, rfl, ?_⟩, ⟨_, _, _, exec_getvel s, rfl, rfl, ?_⟩⟩
  · obtain ⟨xTile, xSub, yTile⟩ := positionData_bytes_toNat s.snap
    rw [answerWrite_snap, answerRead_snap, xTile, xSub, yTile, setpos_own]
  · rw [answerWrite_snap, answerRead_snap, sval8_velocityData, setvel_own]

/-- Settles O48: what the accessor reads is what the setter has left, kept through every cycle between. -/
theorem setThenGetReturnsTheClampedOperands : Obligations.SetThenGetReturnsTheClampedOperands := by
  refine ⟨fun s a b c ps fits between => ?_, fun s v ps fits between => ?_⟩
  · obtain ⟨u, t, position, answered, ran⟩ := feeds_set_keep_get
      (P := fun x => positionData x = positionData (s.snap.setpos a b c))
      (fun _ _ _ allowed run => (exec_keeps_position allowed run).trans) between fits (getter := .getpos) rfl
      (s := s) rfl rfl
    cases (exec_getpos u).symm.trans answered
    refine ⟨_, _, ran, rfl, ?_⟩
    rw [position, positionData_toNat, setpos_xTile_toNat, setpos_xSub_toNat, setpos_yTile_toNat]
  · obtain ⟨low, high⟩ := clampS5_range v
    obtain ⟨u, t, pattern, answered, ran⟩ := feeds_set_keep_get
      (P := fun x => x.velEnc = enc5 (clampS5 v))
      (fun _ _ _ allowed run => (exec_keeps_velEnc allowed run).trans) between fits (getter := .getvel) rfl
      (s := s) rfl (setvel_velEnc s.snap v)
    cases (exec_getvel u).symm.trans answered
    refine ⟨_, _, ran, rfl, ?_⟩
    rw [velocityData_of_velEnc pattern, sext8_enc5 low high, clampS5_eq_max_min]

end Sys2Proof.Laws
end

section
/-! PROOFS. The block as a Mealy machine on packed values, the layout of its response word, and command lists as
folds. -/

namespace Sys2Proof.Laws

open Sys2Proof.Machine

/-! ## The closed forms of the readers

Shifting and masking the packed value takes one run of its bits (30_encoding.md R74). -/

section ClosedForms

theorem ushiftRight_and_low (p : Packed) (k n : Nat) :
    (p >>> k) &&& (BitVec.allOnes n).setWidth 24 = (p.extractLsb' k n).setWidth 24 := by
  apply BitVec.eq_of_getLsbD_eq
  intro j hj
  rw [BitVec.getLsbD_and, BitVec.getLsbD_ushiftRight, BitVec.getLsbD_setWidth, BitVec.getLsbD_allOnes,
    BitVec.getLsbD_setWidth, BitVec.getLsbD_extractLsb', decide_eq_true hj, Bool.true_and, Bool.true_and, Bool.and_comm]

theorem ushiftRight_and_low_nibble (p : Packed) (k : Nat) : (p >>> (4 * k)) &&& 0x00000F#24 = (nib p k).setWidth 24 :=
  ushiftRight_and_low p (4 * k) 4

theorem and_low_nibble (p : Packed) : p &&& 0x00000F#24 = (nib p 0).setWidth 24 := by
  rw [← ushiftRight_and_low_nibble, Nat.mul_zero, BitVec.ushiftRight_zero]

theorem xor_and_mask {n : Nat} (v w m : BitVec n) : (v ^^^ w) &&& m = (v &&& m) ^^^ (w &&& m) := by
  apply BitVec.eq_of_getLsbD_eq
  intro j hj
  simp only [BitVec.getLsbD_and, BitVec.getLsbD_xor, Bool.and_xor_distrib_right]

theorem packedCsum_eq (p : Packed) :
    packedCsum p = (nib p 0 ^^^ nib p 1 ^^^ nib p 2 ^^^ nib p 3 ^^^ nib p 4).setWidth 24 := by
  simp only [packedCsum, xor_and_mask, and_low_nibble p, ushiftRight_and_low_nibble p 1, ushiftRight_and_low_nibble p 2,
    ushiftRight_and_low_nibble p 3, ushiftRight_and_low_nibble p 4, BitVec.setWidth_xor]

variable (x : Snapshot)

theorem csum_packed : x.csum.setWidth 24 = packedCsum x.packed := by rw [packedCsum_eq, csum_eq_nib]

theorem ser_packedSer : x.ser.packed = packedSer x.packed := by rw [ser_packed, packedSer, csum_packed]

theorem packed_ushiftRight_slot : x.packed >>> 20 = x.storedCsum.setWidth 24 := by
  calc x.packed >>> 20 = 0#20 ++ nib x.packed 5 := BitVec.ushiftRight_eq_extractLsb'_of_lt (by decide)
    _ = 0#20 ++ x.storedCsum := by rw [nib_packed_five]
    _ = x.storedCsum.setWidth 24 := (BitVec.setWidth_eq_append (by decide)).symm

theorem isValid_packed : x.isValid = packedValid x.packed := by
  have low (c : BitVec 4) : c.setWidth 24 = 0#24 ↔ c = 0#4 := by decide +revert
  rw [Bool.eq_iff_iff, packedValid, beq_iff_eq, packed_ushiftRight_slot, ← csum_packed, ← BitVec.setWidth_xor, low,
    BitVec.xor_eq_zero_iff, isValid_iff, eq_comm]

theorem positionData_packed : positionData x = packedPos x.packed := by
  have xTile : x.packed &&& 0x00003F#24 = x.xTile.setWidth 24 := by
    rw [← packed_extract_xTile, ← ushiftRight_and_low, BitVec.ushiftRight_zero]
    rfl
  have xSub : (x.packed >>> 6) &&& 0x00000F#24 = x.xSub.setWidth 24 := by
    rw [← packed_extract_xSub]
    exact ushiftRight_and_low x.packed 6 4
  have yTile : (x.packed >>> 10) &&& 0x00001F#24 = x.yTile.setWidth 24 := by
    rw [← packed_extract_yTile]
    exact ushiftRight_and_low x.packed 10 5
  rw [positionData, data3, packedPos, xTile, xSub, yTile, BitVec.setWidth_setWidth (by decide),
    BitVec.setWidth_setWidth (by decide), BitVec.setWidth_setWidth (by decide)]

theorem velocityData_packed : velocityData x = packedVel x.packed := by
  have pattern : (x.packed >>> 15) &&& 0x00001F#24 = x.velEnc.setWidth 24 := by
    rw [← packed_extract_velEnc]
    exact ushiftRight_and_low x.packed 15 5
  have sign : (x.packed >>> 19) &&& 1#24 = (x.velEnc.extractLsb' 4 1).setWidth 24 := by
    have top_bit : x.velEnc.extractLsb' 4 1 = x.packed.extractLsb' 19 1 := by
      rw [← packed_extract_velEnc]
      exact extractLsb'_congr fun k h => by
        rw [BitVec.getLsbD_extractLsb', decide_eq_true (by omega), Bool.true_and, ← Nat.add_assoc]
    rw [top_bit]
    exact ushiftRight_and_low x.packed 19 1
  have extended (e : BitVec 5) : (sext8 e).setWidth 24 =
      e.setWidth 24 ||| (if (e.extractLsb' 4 1).setWidth 24 = 1#24 then 0x0000E0#24 else 0#24) := by decide +revert
  rw [velocityData, packedVel, pattern, sign, extended]

end ClosedForms

/-! ## Commands on packed values -/

/-- What each command makes of the packed value and what data it answers, in the closed forms. -/
def closedForm (p : Packed) : Instr → Packed × Packed
  | .clr => (0#24, 0#24)
  | .setpos a b c => (packedSetpos p a b c, 0#24)
  | .setvel v => (packedSetvel p v, 0#24)
  | .csum => (p, packedCsum p)
  | .valid => (p, if packedValid p then 1#24 else 0#24)
  | .ser => (p, packedSer p)
  | .deser b0 b1 b2 => (b2 ++ b1 ++ b0, 0#24)
  | .raw => (p, p)
  | .getpos => (p, packedPos p)
  | .getvel => (p, packedVel p)

/-- Each command's meaning is its closed form. -/
theorem exec_closedForm {i : Instr} {s t : State} (run : exec i s = .next t) :
    t.snap.packed = (closedForm s.snap.packed i).1 ∧ t.rsp = some ⟨.ok, (closedForm s.snap.packed i).2⟩ := by
  cases i with
  | clr => cases run; exact ⟨reset_packed, rfl⟩
  | setpos a b c => cases run; exact ⟨setpos_packed .., rfl⟩
  | setvel v => cases run; exact ⟨setvel_packed .., rfl⟩
  | deser b0 b1 b2 => cases run; exact ⟨rfl, rfl⟩
  | csum => cases run; exact ⟨rfl, by rw [answerRead_rsp, csum_packed]; rfl⟩
  | valid => cases run; exact ⟨rfl, by rw [answerRead_rsp, isValid_packed]; rfl⟩
  | ser => cases (exec_ser s).symm.trans run; exact ⟨rfl, by rw [answerRead_rsp, ser_packedSer]; rfl⟩
  | raw => cases (exec_raw s).symm.trans run; exact ⟨rfl, rfl⟩
  | getpos => cases (exec_getpos s).symm.trans run; exact ⟨rfl, by rw [answerRead_rsp, positionData_packed]; rfl⟩
  | getvel => cases (exec_getvel s).symm.trans run; exact ⟨rfl, by rw [answerRead_rsp, velocityData_packed]; rfl⟩

/-! ## Words on packed values -/

section Words

variable (w : CmdWord)

theorem cmdP0_toNat : (cmdP0 w).toNat = w.toNat % 256 := BitVec.extractLsb'_toNat ..

theorem cmdP1_toNat : (cmdP1 w).toNat = w.toNat / 256 % 256 := by
  rw [cmdP1, BitVec.extractLsb'_toNat, Nat.shiftRight_eq_div_pow]

theorem cmdP2_toNat : (cmdP2 w).toNat = w.toNat / 65536 % 256 := by
  rw [cmdP2, BitVec.extractLsb'_toNat, Nat.shiftRight_eq_div_pow]

theorem cmdOp_toNat : (cmdOp w).toNat = (w >>> 28).toNat := by
  have top : w.toNat / 2 ^ 28 < 2 ^ 4 := by
    have width : w.toNat < 2 ^ 32 := w.isLt
    omega
  rw [cmdOp, BitVec.extractLsb'_toNat, BitVec.toNat_ushiftRight, Nat.shiftRight_eq_div_pow, Nat.mod_eq_of_lt top]

/-- The mask of the reserved field takes nothing from a word iff the field is 0 (30_encoding.md R68). -/
theorem and_rsvd_mask_eq_zero_iff : w &&& 0x0F000000#32 = 0#32 ↔ cmdRsvd w = 0#4 := by
  have masked : w &&& 0x0F000000#32 = 0#4 ++ cmdRsvd w ++ 0#24 := by
    calc w &&& 0x0F000000#32
        = (cmdOp w ++ cmdRsvd w ++ cmdPayload w) &&& (0#4 ++ BitVec.allOnes 4 ++ 0#24) := by rw [word_eq_fields]; rfl
      _ = 0#4 ++ cmdRsvd w ++ 0#24 := by
          rw [BitVec.and_append, BitVec.and_append, BitVec.and_allOnes, BitVec.and_zero, BitVec.and_zero]
  rw [masked]
  constructor
  · intro zero
    rw [← cmdRsvd_fields 0#4 (cmdRsvd w) 0#24, zero]
    decide
  · intro zero
    rw [zero]
    rfl

variable {w}

/-- With a reserved field of 0, the row of `mealy` is chosen by the opcode that the decoder goes by. -/
theorem mealy_of_cmd {i : Instr} (h : decode w = .cmd i) (p : Packed) :
    mealy p w = ((closedForm p i).1, (closedForm p i).2.setWidth 32) := by
  obtain ⟨legal, row⟩ := (decode_eq_cmd_iff w i).mp h
  rw [mealy, if_neg (not_not.mpr ((and_rsvd_mask_eq_zero_iff w).mpr legal)), ← cmdOp_toNat, ← cmdP0_toNat,
    ← cmdP1_toNat, ← cmdP2_toNat]
  generalize (cmdOp w).toNat = op at row ⊢
  unfold decodeOp at row
  split at row
  case h_3 =>
    cases row
    rw [sval8_eq_toInt, cmdP0, ← BitVec.setWidth_eq_extractLsb' (by decide)]
    rfl
  case h_5 =>
    cases row
    rw [closedForm]
    cases packedValid p <;> rfl
  case h_7 =>
    cases row
    rw [closedForm, bytes_eq_cmdPayload, cmdPayload, ← BitVec.setWidth_eq_extractLsb' (by decide)]
    rfl
  case h_11 => cases row
  all_goals cases row; rfl

theorem mealy_of_illegal (h : decode w = .illegal) (p : Packed) : mealy p w = (p, 0x10000000#32) := by
  by_cases legal : cmdRsvd w = 0#4
  · rw [decode_of_rsvd_zero legal] at h
    rw [mealy, if_neg (not_not.mpr ((and_rsvd_mask_eq_zero_iff w).mpr legal)), ← cmdOp_toNat]
    generalize (cmdOp w).toNat = op at h ⊢
    rw [decodeOp_eq_illegal_iff] at h
    split
    case h_11 => rfl
    all_goals omega
  · exact if_pos ((and_rsvd_mask_eq_zero_iff w).not.mpr legal)

end Words

/-- The word of an OK response is its data (30_encoding.md R62). -/
theorem word_of_ok (d : Packed) : (⟨.ok, d⟩ : Response).word = d.setWidth 32 := by
  calc (⟨.ok, d⟩ : Response).word = 0#8 ++ d := congrArg (· ++ d) (show 0#4 ++ 0#4 = 0#8 by decide)
    _ = d.setWidth 32 := (BitVec.setWidth_eq_append (by decide)).symm

/-! ## The clock edge on packed values -/

/-- What the ports show after a clock edge, as `mealy` gives it. -/
theorem clockEdge_mealy {p : PortIn} {s t : State} (edge : clockEdge p s = .next t) :
    (t.snap.packed, t.rsp.map Response.word) =
      if p.rst then (0x000000#24, none)
      else if p.cmdValid then ((mealy s.snap.packed p.cmd).1, some (mealy s.snap.packed p.cmd).2)
      else (s.snap.packed, none) := by
  rcases clockEdge_cases p s with ⟨rst, reset⟩ | ⟨running, presented, i, legal, executed⟩ |
    ⟨running, presented, is_illegal, illegal⟩ | ⟨running, silent, idle⟩
  · cases reset.symm.trans edge
    rw [rst, if_pos rfl, resetCycle_snap, resetCycle_rsp]
    rfl
  · obtain ⟨register, answered⟩ := exec_closedForm (executed.symm.trans edge)
    rw [running, presented, if_neg Bool.false_ne_true, if_pos rfl, mealy_of_cmd legal, register, answered,
      Option.map_some, word_of_ok]
  · cases illegal.symm.trans edge
    rw [running, presented, if_neg Bool.false_ne_true, if_pos rfl, mealy_of_illegal is_illegal]
    rfl
  · cases idle.symm.trans edge
    rw [running, silent, if_neg Bool.false_ne_true, if_neg Bool.false_ne_true]
    rfl

theorem feeds_mealyFold {ws : List CmdWord} {s t : State} (ran : s.feeds (commandSamples ws) t) :
    t.snap.packed = mealyFold s.snap.packed ws := by
  induction ws generalizing s with
  | nil => rw [feeds_nil_iff.mp ran]; rfl
  | cons w ws ih =>
    obtain ⟨u, edge⟩ := clockEdge_completes (PortIn.command w) s
    have register : u.snap.packed = (mealy s.snap.packed w).1 := congrArg Prod.fst (clockEdge_mealy edge)
    rw [ih ((feeds_cons_iff edge).mp ran), register]
    rfl

/-! ## The response word -/

/-- The three position bytes with the zeros above each field written out (30_encoding.md R67). -/
theorem positionData_eq_append (x : Snapshot) :
    positionData x = 0#3 ++ x.yTile ++ 0#4 ++ x.xSub ++ 0#2 ++ x.xTile := by
  have yTile : x.yTile.setWidth 8 = 0#3 ++ x.yTile := BitVec.setWidth_eq_append (by decide)
  have xSub : x.xSub.setWidth 8 = 0#4 ++ x.xSub := BitVec.setWidth_eq_append (by decide)
  have xTile : x.xTile.setWidth 8 = 0#2 ++ x.xTile := BitVec.setWidth_eq_append (by decide)
  rw [positionData, data3_eq_append, yTile, xSub, xTile,
    BitVec.append_assoc (x₁ := 0#3 ++ x.yTile ++ 0#4 ++ x.xSub) (x₂ := 0#2), BitVec.cast_eq,
    BitVec.append_assoc (x₁ := 0#3 ++ x.yTile) (x₂ := 0#4), BitVec.cast_eq]

/-- The data that each command answers: fields and bytes in their places, with zeros above (30_encoding.md R67). -/
def responseData (x : Snapshot) : Instr → Packed
  | .clr => 0#24
  | .setpos _ _ _ => 0#24
  | .setvel _ => 0#24
  | .csum => 0#20 ++ x.csum
  | .valid => if x.storedCsum = x.csum then 1#24 else 0#24
  | .ser => x.csum ++ x.b2.extractLsb' 0 4 ++ x.b1 ++ x.b0
  | .deser _ _ _ => 0#24
  | .raw => x.b2 ++ x.b1 ++ x.b0
  | .getpos => 0#3 ++ x.yTile ++ 0#4 ++ x.xSub ++ 0#2 ++ x.xTile
  | .getvel => 0#16 ++ x.velEnc.signExtend 8

theorem exec_responseData (i : Instr) (s : State) :
    ∃ t, exec i s = .next t ∧ t.rsp = some ⟨.ok, responseData s.snap i⟩ := by
  cases i with
  | clr | setpos | setvel | deser => exact ⟨_, rfl, rfl⟩
  | csum => exact ⟨_, rfl, by rw [answerRead_rsp, BitVec.setWidth_eq_append (by decide)]; rfl⟩
  | valid => exact ⟨_, exec_valid_of_iff (isValid_iff s.snap), rfl⟩
  | ser => exact ⟨_, exec_ser s, by rw [answerRead_rsp, Snapshot.packed, ser_b2]; rfl⟩
  | raw => exact ⟨_, exec_raw s, rfl⟩
  | getpos => exact ⟨_, exec_getpos s, by rw [answerRead_rsp, positionData_eq_append]; rfl⟩
  | getvel => exact ⟨_, exec_getvel s, by rw [answerRead_rsp, velocityData_eq_append, sext8_eq_signExtend]; rfl⟩

/-- The response word of a legal word. -/
theorem step_response_of_cmd {w : CmdWord} {i : Instr} (legal : decode w = .cmd i) (s : State) :
    ∃ t r, step (s.present w) = .next t ∧ t.rsp = some r ∧ r.word.extractLsb' 28 4 = 0x0#4 ∧
      r.word.extractLsb' 24 4 = 0#4 ∧ r.word.extractLsb' 0 24 = responseData s.snap i := by
  obtain ⟨t, run, answered⟩ := exec_responseData i s
  exact ⟨t, _, (step_present_of_cmd legal s).trans run, answered, response_word_fields _⟩

/-! ## The statements -/

/-- Settles O10: each branch of the clock edge beside its branch of `mealy`, each command beside its closed form. -/
theorem blockRefinesThePackedMealyMachine : Obligations.BlockRefinesThePackedMealyMachine := by
  intro s p rest inputs
  obtain ⟨t, edge⟩ := clockEdge_completes p (s.withInputs rest)
  have shown := clockEdge_mealy edge
  exact ⟨t, (step_of_cons inputs).trans edge, clockEdge_inputs edge, shown⟩

/-- Settles O11: a run is taken apart sample by sample, and each sample is one `mealy` step. -/
theorem commandSequenceIsALeftFold : Obligations.CommandSequenceIsALeftFold := by
  intro s ws vs
  obtain ⟨t, ran⟩ := feeds_completes s (commandSamples ws)
  refine ⟨t, ran, feeds_inputs ran, feeds_mealyFold ran, fun t' ran' => feeds_unique ran ran', fun u => ?_⟩
  rw [commandSamples, List.map_append]
  exact feeds_append_iff ran

/-- Settles O12: the fields of the response word, and each command's data by the runs of bits it is made of. -/
theorem responseWordLayout : Obligations.ResponseWordLayout := by
  refine ⟨fun s w => ?_, fun s₁ s₂ w same => ?_⟩
  · cases decoded : decode w with
    | illegal =>
      rw [if_pos rfl]
      exact ⟨_, _, step_present_of_illegal decoded s, rfl, response_word_fields _⟩
    | cmd i =>
      rw [if_neg (by simp)]
      have response := step_response_of_cmd decoded s
      cases i with
      | clr | setpos | setvel | csum | valid | ser | deser | raw | getpos | getvel => exact response
  · cases decoded : decode w with
    | illegal => exact ⟨_, _, step_present_of_illegal decoded s₁, step_present_of_illegal decoded s₂, rfl⟩
    | cmd i =>
      obtain ⟨t₁, run₁⟩ := exec_completes i s₁
      obtain ⟨t₂, run₂⟩ := exec_completes i s₂
      exact ⟨t₁, t₂, (step_present_of_cmd decoded s₁).trans run₁, (step_present_of_cmd decoded s₂).trans run₂,
        exec_rsp_of_same_snap same run₁ run₂⟩

end Sys2Proof.Laws
end
